-- ==== Sys2Proof/Word.lean ====
section
/-! DEFINITION. The word types of the block and their plainest arithmetic (00_scope.md R8, R10, R11). -/

namespace Sys2Proof

/-- A byte, `b[7:0]` (R10). -/
abbrev Byte := BitVec 8

/-- A 16-bit CRC value, `c[15:0]` (R10). -/
abbrev Crc := BitVec 16

/-- One sequence, SYNC or header bit (R8: "each sequence counter is 1 bit"). -/
abbrev Bit := BitVec 1

/-- The low byte `c[7:0]` of a CRC value (R10). -/
def Crc.lo (c : Crc) : Byte := c.setWidth 8

/-- The high byte `c[15:8]` of a CRC value (R10). -/
def Crc.hi (c : Crc) : Byte := (c >>> 8).setWidth 8

end Sys2Proof
end

