-- ==== Sys2Proof/Config.lean ====
section
/-! DEFINITION. The configuration tuple of 00_scope.md R6 with the constraints of R7, the catalog formats of
30_encoding.md R83 and R84, the test configuration TC of 95_test_vectors.md, and the free values a RESET draws. -/

namespace Sys2Proof

/-- The name of a record field, an opaque label (assumption 15). -/
abbrev FieldName := Nat

/-- How a decoded field reads its bytes (R82): a big-endian number or a byte string. -/
inductive Kind where
  | int
  | raw
  deriving DecidableEq, Repr

/-- A request field of a command catalog entry (R79, R83). -/
inductive ReqField where
  | int (w : Nat)
  | raw (w : Nat)
  | rawVar (m : Nat)
  deriving DecidableEq, Repr

/-- A decoded field `(name, o, w, kind)` of a reply or notification layout (R83, R84). -/
structure Field where
  name : FieldName
  o : Nat
  w : Nat
  kind : Kind
  deriving DecidableEq, Repr

/-- A command catalog entry (R83). -/
structure CmdEntry where
  cmdId : Byte
  param : Bool
  subId : Byte
  req : List ReqField
  minReply : Nat
  rep : List Field
  deriving DecidableEq, Repr

/-- A notification catalog entry (R84). -/
structure NotifEntry where
  cmdId : Byte
  minLen : Nat
  fields : List Field
  tail : Option Nat
  fixSize : Nat
  deriving DecidableEq, Repr

/-- The most bytes a request field can take (R79). -/
def ReqField.maxBytes : ReqField → Nat
  | .int w => w
  | .raw w => w
  | .rawVar m => m

/-- The request list of R83: each width at least 1, a RAWVAR only at the end. -/
def reqFieldsOk : List ReqField → Bool
  | [] => true
  | .int w :: fs => decide (1 ≤ w) && reqFieldsOk fs
  | .raw w :: fs => decide (1 ≤ w) && reqFieldsOk fs
  | .rawVar _ :: fs => fs.isEmpty

/-- The checks of R83 on one command entry: fields fit in `minReply`, a parameterized entry replies with at least
its sub-identifier, the longest request is at most 255 bytes, names are distinct, `minReply` is in 0..254. -/
def CmdEntry.ok (C : CmdEntry) : Bool :=
  reqFieldsOk C.req
    && C.rep.all (fun f => decide (f.o + f.w ≤ C.minReply))
    && (!C.param || decide (1 ≤ C.minReply))
    && decide ((if C.param then 1 else 0) + (C.req.map ReqField.maxBytes).sum ≤ 255)
    && decide (C.rep.map Field.name).Nodup
    && decide (C.minReply ≤ 254)

/-- The checks of R84 on one notification entry. -/
def NotifEntry.ok (N : NotifEntry) : Bool :=
  decide (N.minLen ≤ 255)
    && N.fields.all (fun f => decide (f.o + f.w ≤ N.minLen))
    && (match N.tail with | none => true | some t => decide (t ≤ N.minLen))

/-- The record size `size(N, m)` of R84. -/
def NotifEntry.size (N : NotifEntry) (m : Nat) : Nat :=
  N.fixSize + (match N.tail with | none => 0 | some t => m - t)

/-- The configuration tuple of R6, before the constraints of R7. -/
structure Params where
  delim : Byte
  esc : Byte
  mask : Byte
  seed : Crc
  table : List Crc
  good : Crc
  rxCap : Nat
  notifCap : Nat
  noSubcmd : Byte
  rcOk : Byte
  cat : List CmdEntry
  ncat : List NotifEntry
  nInst : Nat
  deriving DecidableEq, Repr

/-- `TABLE[i]` (R100): the table has 256 entries (`Params.ok`), so every byte indexes one. -/
def Params.tableAt (p : Params) (i : Byte) : Crc := p.table.getD i.toNat 0

/-- The residue that R102 derives from the table. -/
def Params.residue (p : Params) : Crc :=
  (p.tableAt 0xFF >>> 8) ^^^ p.tableAt (0xFF ^^^ (p.tableAt 0xFF).setWidth 8)

/-- R7(a) to (c): the reserved bytes differ, the mask changes a byte, and each escaped form is unreserved. -/
def Params.linkOk (p : Params) : Bool :=
  decide (p.delim ≠ p.esc) && decide (p.mask ≠ 0)
    && decide (p.delim ^^^ p.mask ≠ p.delim) && decide (p.delim ^^^ p.mask ≠ p.esc)
    && decide (p.esc ^^^ p.mask ≠ p.delim) && decide (p.esc ^^^ p.mask ≠ p.esc)

/-- R7(f): every catalog entry is well formed, and notification ids are unique (R84). -/
def Params.catalogsOk (p : Params) : Bool :=
  p.cat.all CmdEntry.ok && p.ncat.all NotifEntry.ok && decide (p.ncat.map NotifEntry.cmdId).Nodup

/-- The constraints of R7, with the table size of R6, `N_INST ≥ 1` (R6) and `RC_OK = 0x00` (R169). -/
def Params.ok (p : Params) : Bool :=
  p.linkOk && decide (p.table.length = 256) && decide (p.good = p.residue)
    && decide (6 ≤ p.rxCap) && decide (p.rxCap ≤ 260)
    && p.catalogsOk && decide (p.rcOk = 0) && decide (1 ≤ p.nInst)

/-- A configuration the block can be built with. R7: "A model refuses (does not build) a configuration that breaks
one": such a tuple is no `Config` (assumption 22). -/
structure Config extends Params where
  wf : toParams.ok = true
  deriving DecidableEq, Repr

/-! ### The default table (R101) and the test configuration TC -/

/-- Entries 0x00 to 0x3F of the table printed in R101. -/
def defaultTable0 : List Crc := [
  0x0000, 0x1189, 0x2312, 0x329B, 0x4624, 0x57AD, 0x6536, 0x74BF,
  0x8C48, 0x9DC1, 0xAF5A, 0xBED3, 0xCA6C, 0xDBE5, 0xE97E, 0xF8F7,
  0x1081, 0x0108, 0x3393, 0x221A, 0x56A5, 0x472C, 0x75B7, 0x643E,
  0x9CC9, 0x8D40, 0xBFDB, 0xAE52, 0xDAED, 0xCB64, 0xF9FF, 0xE876,
  0x2102, 0x308B, 0x0210, 0x1399, 0x6726, 0x76AF, 0x4434, 0x55BD,
  0xAD4A, 0xBCC3, 0x8E58, 0x9FD1, 0xEB6E, 0xFAE7, 0xC87C, 0xD9F5,
  0x3183, 0x200A, 0x1291, 0x0318, 0x77A7, 0x662E, 0x54B5, 0x453C,
  0xBDCB, 0xAC42, 0x9ED9, 0x8F50, 0xFBEF, 0xEA66, 0xD8FD, 0xC974]

/-- Entries 0x40 to 0x7F of the table printed in R101. -/
def defaultTable1 : List Crc := [
  0x4204, 0x538D, 0x6116, 0x709F, 0x0420, 0x15A9, 0x2732, 0x36BB,
  0xCE4C, 0xDFC5, 0xED5E, 0xFCD7, 0x8868, 0x99E1, 0xAB7A, 0xBAF3,
  0x5285, 0x430C, 0x7197, 0x601E, 0x14A1, 0x0528, 0x37B3, 0x263A,
  0xDECD, 0xCF44, 0xFDDF, 0xEC56, 0x98E9, 0x8960, 0xBBFB, 0xAA72,
  0x6306, 0x728F, 0x4014, 0x519D, 0x2522, 0x34AB, 0x0630, 0x17B9,
  0xEF4E, 0xFEC7, 0xCC5C, 0xDDD5, 0xA96A, 0xB8E3, 0x8A78, 0x9BF1,
  0x7387, 0x620E, 0x5095, 0x411C, 0x35A3, 0x242A, 0x16B1, 0x0738,
  0xFFCF, 0xEE46, 0xDCDD, 0xCD54, 0xB9EB, 0xA862, 0x9AF9, 0x8B70]

/-- Entries 0x80 to 0xBF of the table printed in R101. -/
def defaultTable2 : List Crc := [
  0x8408, 0x9581, 0xA71A, 0xB693, 0xC22C, 0xD3A5, 0xE13E, 0xF0B7,
  0x0840, 0x19C9, 0x2B52, 0x3ADB, 0x4E64, 0x5FED, 0x6D76, 0x7CFF,
  0x9489, 0x8500, 0xB79B, 0xA612, 0xD2AD, 0xC324, 0xF1BF, 0xE036,
  0x18C1, 0x0948, 0x3BD3, 0x2A5A, 0x5EE5, 0x4F6C, 0x7DF7, 0x6C7E,
  0xA50A, 0xB483, 0x8618, 0x9791, 0xE32E, 0xF2A7, 0xC03C, 0xD1B5,
  0x2942, 0x38CB, 0x0A50, 0x1BD9, 0x6F66, 0x7EEF, 0x4C74, 0x5DFD,
  0xB58B, 0xA402, 0x9699, 0x8710, 0xF3AF, 0xE226, 0xD0BD, 0xC134,
  0x39C3, 0x284A, 0x1AD1, 0x0B58, 0x7FE7, 0x6E6E, 0x5CF5, 0x4D7C]

/-- Entries 0xC0 to 0xFF of the table printed in R101. -/
def defaultTable3 : List Crc := [
  0xC60C, 0xD785, 0xE51E, 0xF497, 0x8028, 0x91A1, 0xA33A, 0xB2B3,
  0x4A44, 0x5BCD, 0x6956, 0x78DF, 0x0C60, 0x1DE9, 0x2F72, 0x3EFB,
  0xD68D, 0xC704, 0xF59F, 0xE416, 0x90A9, 0x8120, 0xB3BB, 0xA232,
  0x5AC5, 0x4B4C, 0x79D7, 0x685E, 0x1CE1, 0x0D68, 0x3FF3, 0x2E7A,
  0xE70E, 0xF687, 0xC41C, 0xD595, 0xA12A, 0xB0A3, 0x8238, 0x93B1,
  0x6B46, 0x7ACF, 0x4854, 0x59DD, 0x2D62, 0x3CEB, 0x0E70, 0x1FF9,
  0xF78F, 0xE606, 0xD49D, 0xC514, 0xB1AB, 0xA022, 0x92B9, 0x8330,
  0x7BC7, 0x6A4E, 0x58D5, 0x495C, 0x3DE3, 0x2C6A, 0x1EF1, 0x0F78]

/-- The default `TABLE` of R101 (assumption 1): the reflected polynomial 0x8408. -/
def defaultTable : List Crc := defaultTable0 ++ defaultTable1 ++ defaultTable2 ++ defaultTable3

/-! Field names of TC's catalogs (95_test_vectors.md section 1). -/

/-- TC's reply field `value` of GETP. -/
def fieldValue : FieldName := 0
/-- TC's reply field `tag` of GETP. -/
def fieldTag : FieldName := 1
/-- TC's reply field `handle` of SEND. -/
def fieldHandle : FieldName := 2
/-- TC's notification field `utc` of TIME. -/
def fieldUtc : FieldName := 3
/-- TC's notification field `srcPort` of DATA. -/
def fieldSrcPort : FieldName := 4

/-- TC's command entry JOIN. Its `subId` 0x00 is the model's choice: TC gives an entry with `param` 0 none (DESIGN CHOICE,
assumption 28). -/
def tcJoin : CmdEntry :=
  { cmdId := 0x31, param := false, subId := 0, req := [], minReply := 0, rep := [] }

/-- TC's command entry GETP. -/
def tcGetp : CmdEntry :=
  { cmdId := 0x32, param := true, subId := 0x08, req := [], minReply := 7,
    rep := [⟨fieldValue, 1, 2, .int⟩, ⟨fieldTag, 3, 4, .raw⟩] }

/-- TC's command entry SEND. Its `subId` 0x00 is the model's choice, as JOIN's (DESIGN CHOICE, assumption 28). -/
def tcSend : CmdEntry :=
  { cmdId := 0x33, param := false, subId := 0, req := [.int 2, .rawVar 16], minReply := 1,
    rep := [⟨fieldHandle, 0, 1, .int⟩] }

/-- TC's notification entry TIME. -/
def tcTime : NotifEntry :=
  { cmdId := 0x41, minLen := 4, fields := [⟨fieldUtc, 0, 4, .int⟩], tail := none, fixSize := 4 }

/-- TC's notification entry DATA. -/
def tcData : NotifEntry :=
  { cmdId := 0x42, minLen := 2, fields := [⟨fieldSrcPort, 0, 2, .int⟩], tail := some 2, fixSize := 3 }

/-- The test configuration TC of 95_test_vectors.md, with the default link constants of R6 (DESIGN CHOICE,
assumptions 1 and 2). -/
def Params.tc : Params :=
  { delim := 0x7E, esc := 0x7D, mask := 0x20, seed := 0xFFFF, table := defaultTable, good := 0xF0B8,
    rxCap := 128, notifCap := 16, noSubcmd := 0xFF, rcOk := 0x00,
    cat := [tcJoin, tcGetp, tcSend], ncat := [tcTime, tcData], nInst := 1 }

/-- TC as a configuration that meets R7. -/
def Config.tc : Config := { Params.tc with wf := by decide +kernel }

/-! ### Free values (assumptions 4 and 5)

What a RESET leaves in the registers whose reset value the spec leaves open, for the n-th draw of a run. Nothing in
Lean can evaluate them: a proof holds for every value. -/

/-- FREE VALUE: `rxSeq` after a reset (R30, D13). -/
opaque Config.rxSeqDraw : Nat → Bit
/-- FREE VALUE: `rxCrc` after a reset (R23). -/
opaque Config.rxCrcDraw : Nat → Crc
/-- FREE VALUE: byte `k` of `rxBuf` after a reset (R24). -/
opaque Config.rxBufDraw : Nat → Nat → Byte
/-- FREE VALUE: `txCrc` after a reset (R27). -/
opaque Config.txCrcDraw : Nat → Crc
/-- FREE VALUE: `regCmdId` after a reset (R31). -/
opaque Config.regCmdIdDraw : Nat → Byte
/-- FREE VALUE: `regEntry` after a reset (R31). -/
opaque Config.regEntryDraw : Nat → Nat
/-- FREE VALUE: `slotCmdId` after a reset (R33). -/
opaque Config.slotCmdIdDraw : Nat → Byte
/-- FREE VALUE: `slotEntry` after a reset (R33). -/
opaque Config.slotEntryDraw : Nat → Nat
/-- FREE VALUE: `slotSubId` after a reset (R33). -/
opaque Config.slotSubIdDraw : Nat → Byte
/-- FREE VALUE: `slotDst` after a reset (R33). -/
opaque Config.slotDstDraw : Nat → Nat

end Sys2Proof
end

