-- ==== Sys2Proof/Syntax.lean ====
section
/-! DEFINITION. The operations of the block: one constructor of `Instr` per row of spec/opcode_table.json, with the
operands the row's rule gives it; the port a word stands at; and the transaction record a script holds. -/

namespace Sys2Proof

/-- A typed value: an INVOKE argument (R79), a decoded reply field (R52) or a decoded notification field (R180). An
INT is an unsigned number (R57, R82), a RAW or RAWVAR a byte string in wire order (R54). -/
inductive Value where
  | int (v : Nat)
  | raw (s : List Byte)
  deriving DecidableEq, Repr

/-- One constructor per row of the opcode table, in the table's order. -/
inductive Instr where
  /-- RX_BYTE(b), R103. -/
  | rxByte (b : Byte)
  /-- INVOKE(e, args, dst), R170. -/
  | invoke (e : Nat) (args : List Value) (dst : Nat)
  /-- CANCEL(), R173. -/
  | cancel
  /-- RESET(), R250. -/
  | reset
  /-- A delimiter byte on the wire (R70, R107). -/
  | wireDelim
  /-- An escape byte on the wire (R70, R105). -/
  | wireEsc
  /-- A data byte on the wire: any value but DELIM and ESC (R70, R105). -/
  | wireData (d : Byte)
  /-- A received link payload whose header has RESPONSE = 1 (R77, R144). -/
  | hdrReply (cmd len flags : Byte) (A : List Byte)
  /-- A received link payload whose header has RESPONSE = 0 and SYNC = 1 (R77, R146). -/
  | hdrPeerSync (cmd len flags : Byte) (A : List Byte)
  /-- A received link payload whose header has RESPONSE = 0 and SYNC = 0 (R77, R146). -/
  | hdrPeerNosync (cmd len flags : Byte) (A : List Byte)
  /-- The header of a command frame going out (R81, R141); `y` and `s` are the SYNC and SEQUENCE bits of the word. -/
  | hdrCommandOut (cmd len : Byte) (y s : Bit)
  /-- The header of an acknowledgement going out (R80, R148); `s` is the SEQUENCE bit of the word. -/
  | hdrAckOut (cmd : Byte) (s : Bit)
  /-- CRC_STEP(c, b), R100. -/
  | crcStep (c : Crc) (b : Byte)
  /-- RX_OPEN(), R104. -/
  | rxOpen
  /-- RX_ADD(b), R105. -/
  | rxAdd (b : Byte)
  /-- RX_ABORT(), R106; `d` is the byte that would be stored. -/
  | rxAbort (d : Byte)
  /-- RX_CLOSE(), R107. -/
  | rxClose
  /-- TX_OPEN(), R110. -/
  | txOpen
  /-- TX_WRITE(u), R111. -/
  | txWrite (u : Byte)
  /-- TX_CLOSE(), R112. -/
  | txClose
  /-- SEND_COMMAND(cmd, extraFlags, A, e), R140; `y` and `s` are the SYNC and SEQUENCE bits of the word. -/
  | sendCommand (cmd : Byte) (y s : Bit) (extraFlags : Byte) (A : List Byte) (e : Nat)
  /-- FRAME_RECEIVED(P), R143. -/
  | frameReceived (P : List Byte)
  /-- REPLY_PATH(cmd, A), R144; `x` is the word's ignored flag bits 7:1. -/
  | replyPath (cmd : Byte) (x : BitVec 7) (A : List Byte)
  /-- PEER_PATH(cmd, flags, A), R146. -/
  | peerPath (cmd flags : Byte) (A : List Byte)
  /-- SEND_ACK(cmd), R148; `s` is the SEQUENCE bit of the word. -/
  | sendAck (cmd : Byte) (s : Bit)
  /-- REPLY_HANDLE(e, cmd, rc, R), R174. -/
  | replyHandle (e : Nat) (cmd rc : Byte) (R : List Byte)
  /-- NOTIF_DECODE(cmd, A), R180. -/
  | notifDecode (cmd : Byte) (A : List Byte)
  deriving DecidableEq, Repr

/-- Where a word stands. The rows of the opcode table overlap (0x7E is five rows), and the spec tells them apart by
where the word occurs: the host's port (R85), the receive wire (R70), the header of a received or a sent frame (R75),
or the call of one named procedure (R12). Assumption 9. -/
inductive Port where
  | host | wire | hdrIn | hdrOut
  | crcStep | rxOpen | rxAdd | rxAbort | rxClose | txOpen | txWrite | txClose
  | sendCommand | frameReceived | replyPath | peerPath | sendAck | replyHandle | notifDecode
  deriving DecidableEq, Repr

/-- The operands of a transaction that the table gives no bits and that are no bytes of its word (R85: "with its
operands on the same transaction"; assumption 10). -/
inductive Operands where
  | none
  /-- INVOKE's `e`, `args` and `dst` (R170). -/
  | invoke (e : Nat) (args : List Value) (dst : Nat)
  /-- CRC_STEP's accumulator `c` (R100). -/
  | crc (c : Crc)
  /-- SEND_COMMAND's `extraFlags` and `e` (R140). -/
  | send (extraFlags : Byte) (e : Nat)
  /-- REPLY_HANDLE's `e` and `cmd` (R174). -/
  | reply (e : Nat) (cmd : Byte)
  deriving DecidableEq, Repr

/-- One transaction as a script holds it: its port, its bytes (a header's bytes in wire order, `P[0]` first, R75; then
any byte operands) and its other operands. -/
structure Txn where
  port : Port
  bytes : List Byte
  opnd : Operands
  deriving DecidableEq, Repr

end Sys2Proof
end

