-- ==== Sys2Proof/WellFormed.lean ====
section
/-! DEFINITION. Which operations are well formed: the operand ranges the rules give. The check of an INVOKE's operands
against the catalog is REQ_WF (R172), which INVOKE itself makes (Machine/Operands.lean). -/

namespace Sys2Proof

/-- Every operand is one the row's encoding and rule admit under the link constants `p`. The bound `RX_CAP - 2` of R143 is
asked of FRAME_RECEIVED only, and neither of the received header rows nor of the procedures after it (DESIGN CHOICE,
assumption 29). -/
def Instr.wf (p : Params) : Instr → Bool
  | .rxByte _ => true
  | .invoke _ _ _ => true
  | .cancel => true
  | .reset => true
  | .wireDelim => true
  | .wireEsc => true
  | .wireData d => decide (d ≠ p.delim) && decide (d ≠ p.esc)
  | .hdrReply _ _ f _ => f.getLsbD 0
  | .hdrPeerSync _ _ f _ => !f.getLsbD 0 && f.getLsbD 3
  | .hdrPeerNosync _ _ f _ => !f.getLsbD 0 && !f.getLsbD 3
  | .hdrCommandOut _ _ _ _ => true
  | .hdrAckOut _ _ => true
  | .crcStep _ _ => true
  | .rxOpen => true
  | .rxAdd b => decide (b ≠ p.delim)
  | .rxAbort _ => true
  | .rxClose => true
  | .txOpen => true
  | .txWrite _ => true
  | .txClose => true
  | .sendCommand _ _ _ _ A e => decide (A.length ≤ 255) && decide (e < p.cat.length)
  | .frameReceived P => decide (1 ≤ P.length) && decide (P.length ≤ p.rxCap - 2)
  | .replyPath _ _ A => decide (A.length ≤ 255)
  | .peerPath _ f A => !f.getLsbD 0 && decide (A.length ≤ 255)
  | .sendAck _ _ => true
  | .replyHandle e _ _ R => decide (e < p.cat.length) && decide (R.length ≤ 254)
  | .notifDecode _ A => decide (1 ≤ A.length) && decide (A.length ≤ 255)

end Sys2Proof
end

