-- ==== Sys2Proof/Decode.lean ====
section
/-! DEFINITION. The decoder of transactions, total on any bytes at any port, rejecting by name; the encoder; and the
decoder of the opcode table's words (30_encoding.md, spec/opcode_table.json). -/

namespace Sys2Proof

/-- Why bytes at a port spell no operation. -/
inductive DecodeError where
  /-- Too few or too many bytes for the row. -/
  | byteCount
  /-- The operands beside the word are not the row's. -/
  | operands
  /-- A host word with a bit above the 2-bit code set (R85). -/
  | hostOp
  /-- A row that is the delimiter byte, with another byte. -/
  | notDelimiter
  /-- RX_ADD with the delimiter (R105: "Condition: b ≠ DELIM"). -/
  | delimiter
  /-- A flags byte with a bit set that the row fixes at 0, or clear that it fixes at 1. -/
  | flagBits
  /-- The header's `length` is not the number of bytes that follow (R74). -/
  | length
  /-- A payload outside the rule's range of lengths. -/
  | payload
  /-- An `e` that indexes no entry of CAT. -/
  | entry
  deriving DecidableEq, Repr

/-- What the decoder answers. -/
inductive Decoded where
  | op (i : Instr)
  | reject (r : DecodeError)
  deriving DecidableEq, Repr

/-- The instruction, if there is one. -/
def Decoded.toOption : Decoded → Option Instr
  | .op i => some i
  | .reject _ => none

/-- Answers `i` where the check holds, else rejects. -/
def Decoded.require (ok : Bool) (r : DecodeError) (i : Instr) : Decoded :=
  if ok then .op i else .reject r

/-! ### Bit fields of the flags byte (R76) -/

/-- `flags[1]`, SEQUENCE. -/
def seqOf (flags : Byte) : Bit := flags.extractLsb' 1 1

/-- `flags[3]`, SYNC. -/
def syncOf (flags : Byte) : Bit := flags.extractLsb' 3 1

/-- The flags byte `0000y0s0` of a command header (opcode table; R81 with `extraFlags = 0`). -/
def commandWordFlags (y s : Bit) : Byte := (y.setWidth 8 <<< 3) ||| (s.setWidth 8 <<< 1)

/-- The flags byte `000000s1` of an acknowledgement header (opcode table; R80). -/
def ackWordFlags (s : Bit) : Byte := 1 ||| (s.setWidth 8 <<< 1)

/-- Bits 7 to 4, 2 and 0 are 0. -/
def isCommandFlags (f : Byte) : Bool := decide (f &&& 0xF5 = 0)

/-- Bits 7 to 2 are 0 and bit 0 is 1. -/
def isAckFlags (f : Byte) : Bool := decide (f &&& 0xFD = 1)

/-! ### One decoder per port -/

/-- Rows of one byte. -/
def decodeByteRow (bs : List Byte) (f : Byte → Decoded) : Decoded :=
  match bs with
  | [b] => f b
  | _ => .reject .byteCount

/-- Rows with no operands beside their bytes. -/
def decodeNoOperands (o : Operands) (d : Decoded) : Decoded :=
  match o with
  | .none => d
  | _ => .reject .operands

/-- INVOKE's operands (R170). -/
def decodeInvoke (o : Operands) : Decoded :=
  match o with
  | .invoke e args dst => .op (.invoke e args dst)
  | _ => .reject .operands

/-- The host codes with no operand byte. -/
def decodeHostBare (op : Byte) (o : Operands) : Decoded :=
  if op = 1 then decodeInvoke o
  else if op = 2 then decodeNoOperands o (.op .cancel)
  else if op = 3 then decodeNoOperands o (.op .reset)
  else .reject .hostOp

/-- HOSTOP: the 2-bit code in the first byte (R85), then RX_BYTE's operand byte. -/
def decodeHost (bs : List Byte) (o : Operands) : Decoded :=
  match bs with
  | [] => .reject .byteCount
  | op :: rest =>
    if op = 0 then decodeByteRow rest fun b => decodeNoOperands o (.op (.rxByte b))
    else if rest.isEmpty then decodeHostBare op o
    else .reject .byteCount

/-- WIREBYTE: the class of a byte (R70). -/
def decodeWireByte (p : Params) (b : Byte) : Instr :=
  if b = p.delim then .wireDelim else if b = p.esc then .wireEsc else .wireData b

/-- HDR24, received: the class of a header (R77). A payload longer than RX_CLOSE can deliver (R143) is accepted, by the
model's choice (DESIGN CHOICE, assumption 29). -/
def decodeHdrIn (cmd len flags : Byte) (A : List Byte) : Instr :=
  if flags.getLsbD 0 then .hdrReply cmd len flags A
  else if flags.getLsbD 3 then .hdrPeerSync cmd len flags A
  else .hdrPeerNosync cmd len flags A

/-- HDR24, sent: a command header or an acknowledgement header (R80, R81). -/
def decodeHdrOut (cmd len flags : Byte) : Decoded :=
  if isCommandFlags flags then .op (.hdrCommandOut cmd len (syncOf flags) (seqOf flags))
  else if isAckFlags flags then Decoded.require (len = 0) .length (.hdrAckOut cmd (seqOf flags))
  else .reject .flagBits

/-- INTERNAL rows whose word is the delimiter byte. -/
def decodeDelimRow (p : Params) (bs : List Byte) (i : Instr) : Decoded :=
  match bs with
  | [b] => Decoded.require (b = p.delim) .notDelimiter i
  | _ => .reject .byteCount

/-- INTERNAL rows that begin with a header whose `length` counts the bytes after it (R74). -/
def decodeHeaderRow (bs : List Byte) (f : Byte → Byte → List Byte → Decoded) : Decoded :=
  match bs with
  | cmd :: len :: flags :: A => if len.toNat = A.length then f cmd flags A else .reject .length
  | _ => .reject .byteCount

/-- The decoder of a transaction with no operands beside its bytes, at an INTERNAL or wire port. -/
def decodeBare (p : Params) (port : Port) (bs : List Byte) : Decoded :=
  match port with
  | .wire => decodeByteRow bs fun b => .op (decodeWireByte p b)
  | .hdrIn =>
    match bs with
    | cmd :: len :: flags :: A => .op (decodeHdrIn cmd len flags A)
    | _ => .reject .byteCount
  | .hdrOut =>
    match bs with
    | [cmd, len, flags] => decodeHdrOut cmd len flags
    | _ => .reject .byteCount
  | .rxOpen => decodeDelimRow p bs .rxOpen
  | .rxAdd => decodeByteRow bs fun b => Decoded.require (b ≠ p.delim) .delimiter (.rxAdd b)
  | .rxAbort => decodeByteRow bs fun b => .op (.rxAbort b)
  | .rxClose => decodeDelimRow p bs .rxClose
  | .txOpen => decodeDelimRow p bs .txOpen
  | .txWrite => decodeByteRow bs fun b => .op (.txWrite b)
  | .txClose => decodeDelimRow p bs .txClose
  | .frameReceived =>
    Decoded.require (decide (1 ≤ bs.length) && decide (bs.length ≤ p.rxCap - 2)) .payload (.frameReceived bs)
  | .replyPath => decodeHeaderRow bs fun cmd flags A =>
      Decoded.require (flags.getLsbD 0) .flagBits (.replyPath cmd (flags.extractLsb' 1 7) A)
  | .peerPath => decodeHeaderRow bs fun cmd flags A =>
      Decoded.require (!flags.getLsbD 0) .flagBits (.peerPath cmd flags A)
  | .sendAck =>
    match bs with
    | [cmd, len, flags] =>
      if len = 0 then Decoded.require (isAckFlags flags) .flagBits (.sendAck cmd (seqOf flags))
      else .reject .length
    | _ => .reject .byteCount
  | .notifDecode =>
    match bs with
    | cmd :: A =>
      Decoded.require (decide (1 ≤ A.length) && decide (A.length ≤ 255)) .payload (.notifDecode cmd A)
    | [] => .reject .byteCount
  | .host => .reject .operands
  | .crcStep => .reject .operands
  | .sendCommand => .reject .operands
  | .replyHandle => .reject .operands

/-- CRC_STEP: the byte `b`, with `c` beside it (R100). -/
def decodeCrcStep (bs : List Byte) (o : Operands) : Decoded :=
  match o with
  | .crc c => decodeByteRow bs fun b => .op (.crcStep c b)
  | _ => .reject .operands

/-- SEND_COMMAND: the header word and the payload, with `extraFlags` and `e` beside them (R140). -/
def decodeSendCommand (p : Params) (bs : List Byte) (o : Operands) : Decoded :=
  match o with
  | .send extra e => decodeHeaderRow bs fun cmd flags A =>
      if isCommandFlags flags then
        Decoded.require (e < p.cat.length) .entry
          (.sendCommand cmd (syncOf flags) (seqOf flags) extra A e)
      else .reject .flagBits
  | _ => .reject .operands

/-- REPLY_HANDLE: the result code and the reply bytes, with `e` and `cmd` beside them (R174). -/
def decodeReplyHandle (p : Params) (bs : List Byte) (o : Operands) : Decoded :=
  match o with
  | .reply e cmd =>
    match bs with
    | [] => .reject .byteCount
    | rc :: R =>
      if R.length ≤ 254 then Decoded.require (e < p.cat.length) .entry (.replyHandle e cmd rc R)
      else .reject .payload
  | _ => .reject .operands

/-- The decoder: total on every transaction record, rejecting by name. -/
def decode (p : Params) (t : Txn) : Decoded :=
  match t.port with
  | .host => decodeHost t.bytes t.opnd
  | .crcStep => decodeCrcStep t.bytes t.opnd
  | .sendCommand => decodeSendCommand p t.bytes t.opnd
  | .replyHandle => decodeReplyHandle p t.bytes t.opnd
  | port => decodeNoOperands t.opnd (decodeBare p port t.bytes)

/-! ### The encoder -/

/-- The transaction record of an operation, from the same tables. -/
def encode (p : Params) : Instr → Txn
  | .rxByte b => ⟨.host, [0, b], .none⟩
  | .invoke e args dst => ⟨.host, [1], .invoke e args dst⟩
  | .cancel => ⟨.host, [2], .none⟩
  | .reset => ⟨.host, [3], .none⟩
  | .wireDelim => ⟨.wire, [p.delim], .none⟩
  | .wireEsc => ⟨.wire, [p.esc], .none⟩
  | .wireData d => ⟨.wire, [d], .none⟩
  | .hdrReply c l f A => ⟨.hdrIn, c :: l :: f :: A, .none⟩
  | .hdrPeerSync c l f A => ⟨.hdrIn, c :: l :: f :: A, .none⟩
  | .hdrPeerNosync c l f A => ⟨.hdrIn, c :: l :: f :: A, .none⟩
  | .hdrCommandOut c l y s => ⟨.hdrOut, [c, l, commandWordFlags y s], .none⟩
  | .hdrAckOut c s => ⟨.hdrOut, [c, 0, ackWordFlags s], .none⟩
  | .crcStep c b => ⟨.crcStep, [b], .crc c⟩
  | .rxOpen => ⟨.rxOpen, [p.delim], .none⟩
  | .rxAdd b => ⟨.rxAdd, [b], .none⟩
  | .rxAbort d => ⟨.rxAbort, [d], .none⟩
  | .rxClose => ⟨.rxClose, [p.delim], .none⟩
  | .txOpen => ⟨.txOpen, [p.delim], .none⟩
  | .txWrite u => ⟨.txWrite, [u], .none⟩
  | .txClose => ⟨.txClose, [p.delim], .none⟩
  | .sendCommand c y s extra A e =>
      ⟨.sendCommand, c :: BitVec.ofNat 8 A.length :: commandWordFlags y s :: A, .send extra e⟩
  | .frameReceived P => ⟨.frameReceived, P, .none⟩
  | .replyPath c x A =>
      ⟨.replyPath, c :: BitVec.ofNat 8 A.length :: ((x.setWidth 8 <<< 1) ||| 1) :: A, .none⟩
  | .peerPath c f A => ⟨.peerPath, c :: BitVec.ofNat 8 A.length :: f :: A, .none⟩
  | .sendAck c s => ⟨.sendAck, [c, 0, ackWordFlags s], .none⟩
  | .replyHandle e c rc R => ⟨.replyHandle, rc :: R, .reply e c⟩
  | .notifDecode c A => ⟨.notifDecode, c :: A, .none⟩

/-! ### The opcode table's words (assumption 9) -/

/-- The transaction record of a table word. A word of one byte is a host code where it is one of the four codes
(R85), else a byte on the receive wire (R70); a longer word is a received header `H` (R75), followed by `length` bytes
of 0. Every operand the word gives no bits is 0 or empty. The table numbers `P[2]` as bits 7:0 of `H` (R75), so
`P[0]`, the first byte on the wire, is bits 23:16. -/
def tableTxn (nbits w : Nat) : Txn :=
  if nbits ≤ 8 then
    if w = 0 then ⟨.host, [0, 0], .none⟩
    else if w = 1 then ⟨.host, [1], .invoke 0 [] 0⟩
    else if w ≤ 3 then ⟨.host, [BitVec.ofNat 8 w], .none⟩
    else ⟨.wire, [BitVec.ofNat 8 w], .none⟩
  else
    let h := BitVec.ofNat 24 w
    let len := h.extractLsb' 8 8
    ⟨.hdrIn, h.extractLsb' 16 8 :: len :: h.extractLsb' 0 8 :: List.replicate len.toNat 0, .none⟩

/-- The instruction the decoder reads from a table word, under the default link constants the table uses. -/
def decodeTableWord (nbits w : Nat) : Option Instr :=
  (decode Params.tc (tableTxn nbits w)).toOption

end Sys2Proof
end

