-- ==== Sys2Proof/Machine/State.lean ====
section
/-! DEFINITION. The machine's state as plain data (10_state.md, 20_memory.md R50 to R53, 70_reset_and_hazards.md R264),
its outputs, the reasons a step can stop, and the state after reset. -/

namespace Sys2Proof.Machine

/-- `rxState ∈ {IDLE, RECEIVING}` (R21). -/
inductive RxState where
  | idle
  | receiving
  deriving DecidableEq, Repr

/-- What the block gives the byte transport: a byte, or a flush request (R12, R232). -/
inductive TxOut where
  | byte (b : Byte)
  | flush
  deriving DecidableEq, Repr

/-- The events of R224. -/
inductive Event where
  | replyReady (cmdId : Byte)
  | notifReady (cmdId marker : Byte)
  deriving DecidableEq, Repr

/-- The statuses INVOKE returns (R222). -/
inductive Status where
  | ok
  | busy
  deriving DecidableEq, Repr

/-- The discard causes of R221. -/
inductive Discard where
  | overflow | crc | empty | short | length | noRc | unexpectedReply | duplicate
  | notPending | subId | shortReply | unknownNotif | shortNotif | notifBuf
  deriving DecidableEq, Repr

/-- One typed field of a reply record, with its content if it has one (R52). -/
structure ReplyField where
  name : FieldName
  w : Nat
  kind : Kind
  val : Option Value
  deriving DecidableEq, Repr

/-- A reply record: the result code and the typed fields (R52). "A field the block has not written keeps its earlier
content, which may be no value at all". -/
structure Record where
  rc : Option Byte
  fields : List ReplyField
  deriving DecidableEq, Repr

/-- The variable-length tail of a notification record (R82, R180). -/
structure Tail where
  tailLen : Nat
  bytes : List Byte
  deriving DecidableEq, Repr

/-- A decoded notification record (R180). -/
structure NotifRec where
  fields : List (FieldName × Value)
  tail : Option Tail
  deriving DecidableEq, Repr

/-- A part of a reply record the host can read (R52). -/
inductive ReplySel where
  | rc
  | field (name : FieldName)
  deriving DecidableEq, Repr

/-- What the host does between transactions with the records it shares with the block (R52, R53, R259). -/
inductive HostAccess where
  | readNotif
  | readReply (dst : Nat) (sel : ReplySel)
  | writeReply (dst : Nat) (r : Record)
  deriving DecidableEq, Repr

/-- What a host read returned. -/
inductive HostRead where
  | notif (r : NotifRec)
  | replyRc (dst : Nat) (rc : Byte)
  | replyField (dst : Nat) (name : FieldName) (v : Value)
  deriving DecidableEq, Repr

/-- One link instance: the registers of 10_state.md R21 to R34, its reply records and its outputs. -/
structure Link where
  /-- R21. -/
  rxState : RxState
  /-- R22. -/
  rxEsc : Bool
  /-- R23. -/
  rxCrc : Crc
  /-- R24: `RX_CAP` bytes. -/
  rxBuf : List Byte
  /-- R25. -/
  rxFill : Nat
  /-- R26. -/
  rxLastDelim : Bool
  /-- R27. -/
  txCrc : Crc
  /-- R28. -/
  txFirst : Bool
  /-- R29. -/
  txSeq : Bit
  /-- R30. -/
  rxSeq : Bit
  /-- R31. -/
  regValid : Bool
  /-- R31. -/
  regCmdId : Byte
  /-- R31: an index into CAT. -/
  regEntry : Nat
  /-- R32. -/
  busy : Bool
  /-- R33. -/
  slotCmdId : Byte
  /-- R33: an index into CAT. -/
  slotEntry : Nat
  /-- R33. -/
  slotSubId : Byte
  /-- R33: the handle of a reply record. -/
  slotDst : Nat
  /-- R34; `none` is the spec's "no value". -/
  notifRec : Option NotifRec
  /-- REPLY (R50, R52): the host's reply records, by strictly rising handle. That each link instance has a store of its
  own is the model's choice (DESIGN CHOICE, assumption 27). -/
  replies : List (Nat × Record)
  /-- Everything emitted on TX, oldest first (R12, R232). -/
  tx : List TxOut
  /-- Everything emitted on EV, oldest first (R12, R224). -/
  ev : List Event
  /-- The statuses INVOKE returned, oldest first (R222). -/
  statuses : List Status
  /-- The model's own trace of discards, oldest first (R221: "A model may record them in a trace"; assumption 21). -/
  discards : List Discard
  /-- The model's own record of what host reads returned, oldest first (assumption 16). -/
  reads : List HostRead
  /-- The model's own field: what CRC_STEP returned when run by itself (assumption 13). -/
  crcOut : Crc
  deriving DecidableEq, Repr

/-- What a script item does: a transaction of the block, or a host access to a record. -/
inductive Act where
  | txn (t : Txn)
  | host (a : HostAccess)
  deriving DecidableEq, Repr

/-- One item of a script (R87), with the link instance it addresses (R67, R233). -/
structure Item where
  inst : Nat
  act : Act
  deriving DecidableEq, Repr

/-- The machine: its configuration, its link instances (those before the addressed one, the addressed one, those after
it: `N_INST ≥ 1` of them, R6, R67), the count of draws, and the script still to run (R264). -/
structure State where
  /-- R6; no step writes it (R35, R250). -/
  cfg : Config
  before : List Link
  link : Link
  after : List Link
  /-- The model's own counter of free values drawn (assumption 6). -/
  draws : Nat
  script : List Item
  deriving DecidableEq, Repr

/-- Why the machine stops with a fault. The block itself raises none (R220). -/
inductive Fault where
  /-- Raised by a host read of `notifRec` before it has a value (R34, R53). Safe: the spec asks for it. -/
  | notifUnread
  /-- Raised by a host read of a reply field that has no content (I9, R52). Safe: the spec asks for it. -/
  | replyUnwritten
  /-- Raised by REPLY_HANDLE or a host read that names a reply record, or a field of one, that does not exist
  (assumption 18). Safe: the model stops where the spec says nothing exists. -/
  | noReplyRecord
  deriving DecidableEq, Repr

/-- Why the model gives a step no meaning. -/
inductive Refusal where
  /-- Raised by `exec` on an operation whose meaning is not written yet. Safe. -/
  | notModelled (mnemonic : String)
  /-- Raised by INVOKE when REQ_WF fails (R223). Safe: the spec asks for it. -/
  | encodingMisuse
  /-- Raised by a host access to a record that a pending command has borrowed (R52, D44). Safe: the spec asks for it. -/
  | borrowed
  /-- Raised by SEND_COMMAND and REPLY_HANDLE on operands their rules do not admit: an `e` that indexes no CAT entry, a
  payload over 255 bytes; and by a host write of a record that is not typed (R140, R174, R52; assumption 17). Safe. -/
  | operandRange
  /-- Raised by `step` when the script is exhausted (R264: the run has ended). Safe. -/
  | scriptExhausted
  /-- Raised by `step` when an item addresses no link instance (assumption 19). Safe. -/
  | noSuchInstance
  /-- Raised by `step` on bytes that decode to no operation. Safe. -/
  | undecodable (r : DecodeError)
  deriving DecidableEq, Repr

/-! ### Reset -/

/-- An empty reply record of a command entry's shape (R52, R83). -/
def Record.blank (C : CmdEntry) : Record :=
  { rc := none, fields := C.rep.map fun f => { name := f.name, w := f.w, kind := f.kind, val := none } }

/-- The reply records of 95_test_vectors.md's programs: rec0 (JOIN), rec1 (GETP), rec2 (SEND), rec3 (JOIN); DESIGN
CHOICE, assumption 3. -/
def tcReplies : List (Nat × Record) :=
  [(0, Record.blank tcJoin), (1, Record.blank tcGetp), (2, Record.blank tcSend), (3, Record.blank tcJoin)]

/-- A link after reset (R250) with receive buffer of `cap` bytes, the drawn `rxSeq`, and the host's reply records. The
registers R250 leaves unspecified hold zero here (DESIGN CHOICE, assumption 5). -/
def Link.reset (cap : Nat) (rxSeq : Bit) (replies : List (Nat × Record)) : Link :=
  { rxState := .idle, rxEsc := false, rxCrc := 0, rxBuf := List.replicate cap 0, rxFill := 0, rxLastDelim := false,
    txCrc := 0, txFirst := true, txSeq := 0, rxSeq := rxSeq,
    regValid := false, regCmdId := 0, regEntry := 0,
    busy := false, slotCmdId := 0, slotEntry := 0, slotSubId := 0, slotDst := 0,
    notifRec := none, replies := replies,
    tx := [], ev := [], statuses := [], discards := [], reads := [], crcOut := 0 }

/-- The machine right after reset (R250: "a model's initial state is the state RESET produces"), under the test
configuration TC (assumptions 1 and 2), with draw 0 for `rxSeq` (assumption 4) and nothing placed in the script. -/
def State.reset : State :=
  { cfg := Config.tc, before := [], link := Link.reset Config.tc.rxCap (Config.rxSeqDraw 0) tcReplies, after := [],
    draws := 1, script := [] }

end Sys2Proof.Machine
end

