-- ==== Sys2Proof/Machine/Flags.lean ====
section
/-! DEFINITION. The flags byte (R76), the sequence and SYNC bits of a command frame (R141) and of an acknowledgement
(R80). The block has no condition codes (R36). -/

namespace Sys2Proof.Machine

/-- `flags[0]`, RESPONSE (R76). -/
def isResponse (flags : Byte) : Bool := flags.getLsbD 0

/-- `extraFlags | (seq << 1) | (sync << 3)` (R81). -/
def commandFlags (extraFlags : Byte) (seq sync : Bit) : Byte :=
  extraFlags ||| (seq.setWidth 8 <<< 1) ||| (sync.setWidth 8 <<< 3)

/-- `RESPONSE | (rxSeq << 1)` (R80). -/
def ackFlags (rxSeq : Bit) : Byte := 1 ||| (rxSeq.setWidth 8 <<< 1)

/-- The sequence bit of the next command frame (R141). -/
def nextSeq (l : Link) : Bit := if l.txFirst then 0 else l.txSeq

/-- The SYNC bit of the next command frame (R141). -/
def nextSync (l : Link) : Bit := if l.txFirst then 1 else 0

/-- A peer frame is new: SYNC is set or its sequence bit differs from `rxSeq` (R146). -/
def isNewFrame (flags : Byte) (l : Link) : Bool := decide (syncOf flags = 1 ∨ seqOf flags ≠ l.rxSeq)

end Sys2Proof.Machine
end

