-- ==== Sys2Proof/Machine/Operands.lean ====
section
/-! DEFINITION. Operand forms: big-endian values (R11, R54), request encoding and its well-formedness (R79, R172), field
decoding (R82), and reply and notification records (R52, R180). -/

namespace Sys2Proof.Machine

/-- `BE(s)` (R11): the unsigned big-endian value. -/
def beValue (s : List Byte) : Nat := s.foldl (fun v b => 256 * v + b.toNat) 0

/-- `BE_w(v)` (R11): the `w`-byte big-endian encoding. -/
def beBytes (w v : Nat) : List Byte := (List.range w).map fun k => BitVec.ofNat 8 (v >>> (8 * (w - 1 - k)))

/-- `s[o..o+w)` (R11). -/
def slice (s : List Byte) (o w : Nat) : List Byte := (s.drop o).take w

/-- A decoded field (R82): `BE(s[o..o+w))` for INT, the bytes for RAW. -/
def decodeField (f : Field) (s : List Byte) : Value :=
  match f.kind with
  | .int => .int (beValue (slice s f.o f.w))
  | .raw => .raw (slice s f.o f.w)

/-- An argument fits its request field (R172). -/
def argFits : ReqField → Value → Bool
  | .int w, .int v => decide (v < 256 ^ w)
  | .raw w, .raw s => decide (s.length = w)
  | .rawVar m, .raw s => decide (s.length ≤ m)
  | .int _, .raw _ => false
  | .raw _, .int _ => false
  | .rawVar _, .int _ => false

/-- `|args| = |C.req|` and each argument fits its field (R172). -/
def argsFit : List ReqField → List Value → Bool
  | [], [] => true
  | f :: fs, v :: vs => argFits f v && argsFit fs vs
  | _, _ => false

/-- `enc(f, v)` (R79). An argument of the wrong kind, which REQ_WF excludes, encodes to nothing. -/
def encArg : ReqField → Value → List Byte
  | .int w, .int v => beBytes w v
  | .raw _, .raw s => s
  | .rawVar _, .raw s => s
  | .int _, .raw _ => []
  | .raw _, .int _ => []
  | .rawVar _, .int _ => []

/-- The request fields in order (R172). -/
def encArgs : List ReqField → List Value → List Byte
  | f :: fs, v :: vs => encArg f v ++ encArgs fs vs
  | _, _ => []

/-- ENCODE_REQUEST(C, args) (R172): the sub-identifier of a parameterized command, then the fields. -/
def encodeRequest (C : CmdEntry) (args : List Value) : List Byte :=
  (if C.param then [C.subId] else []) ++ encArgs C.req args

/-- The name, width and kind of a catalog field. -/
def fieldShape (f : Field) : FieldName × Nat × Kind := (f.name, f.w, f.kind)

/-- The name, width and kind of a record's field. -/
def ReplyField.shape (g : ReplyField) : FieldName × Nat × Kind := (g.name, g.w, g.kind)

/-- The shape of a record: the names, widths and kinds of its fields. -/
def Record.shape (r : Record) : List (FieldName × Nat × Kind) := r.fields.map ReplyField.shape

/-- The record has a field of this name, width and kind (R52). -/
def Record.hasField (r : Record) (f : Field) : Bool := decide (fieldShape f ∈ r.shape)

/-- Every field that a successful reply writes exists in the record (R177, R179). -/
def Record.hasFields (r : Record) (rep : List Field) : Bool := rep.all r.hasField

/-- The record is of the entry's shape (R52, R172, R179, D32): one field per entry of the layout and no other. Their
order in the record does not count (assumption 15). -/
def Record.fits (r : Record) (rep : List Field) : Bool := r.shape.isPerm (rep.map fieldShape)

/-- The reply record a handle names, if it exists (R52). -/
def findReply (rs : List (Nat × Record)) (dst : Nat) : Option Record := rs.lookup dst

/-- Puts a reply record, keeping the handles strictly rising. -/
def putReply (rs : List (Nat × Record)) (dst : Nat) (r : Record) : List (Nat × Record) :=
  match rs with
  | [] => [(dst, r)]
  | (d, q) :: rest =>
    if dst < d then (dst, r) :: (d, q) :: rest
    else if dst = d then (dst, r) :: rest
    else (d, q) :: putReply rest dst r

/-- `MemWrite(REPLY[dst], name, v)` on the record (R12, R52). -/
def Record.write (r : Record) (name : FieldName) (v : Value) : Record :=
  { r with fields := r.fields.map fun g => if g.name = name then { g with val := some v } else g }

/-- The field writes of a successful reply, in layout order (R177). -/
def Record.writeAll (r : Record) (rep : List Field) (R : List Byte) : Record :=
  rep.foldl (fun r f => r.write f.name (decodeField f R)) r

/-- A value is of a field's kind and width (R52): an INT w below `256^w`, a RAW w of `w` bytes. -/
def typedValue (kind : Kind) (w : Nat) (v : Value) : Bool :=
  match kind, v with
  | .int, .int n => decide (n < 256 ^ w)
  | .raw, .raw s => decide (s.length = w)
  | .int, .raw _ => false
  | .raw, .int _ => false

/-- A field's content, if any, is of its type (R52). -/
def ReplyField.ok (g : ReplyField) : Bool :=
  match g.val with
  | none => true
  | some v => typedValue g.kind g.w v

/-- A reply record (R52): distinct field names, each content of its field's type. -/
def Record.ok (r : Record) : Bool := decide (r.fields.map ReplyField.name).Nodup && r.fields.all ReplyField.ok

/-- The canonical form of the reply store: handles strictly rising. -/
def handlesRise : List (Nat × Record) → Bool
  | [] => true
  | [_] => true
  | (d, _) :: (d', r') :: rest => decide (d < d') && handlesRise ((d', r') :: rest)

/-- The storage of a link is well formed (R50 to R52, R25): a receive buffer of `RX_CAP` bytes with a fill within it,
and reply records by strictly rising handle, each typed. -/
def Memory.wf (p : Params) (l : Link) : Bool :=
  decide (l.rxBuf.length = p.rxCap) && decide (l.rxFill ≤ p.rxCap)
    && handlesRise l.replies && l.replies.all (fun e => e.2.ok)

/-- REQ_WF(e, args, dst) for the entry `C` that `e` names (R172). -/
def reqWf (C : CmdEntry) (args : List Value) (dst : Option Record) : Bool :=
  argsFit C.req args && decide ((encodeRequest C args).length ≤ 255) &&
    (match dst with
    | none => false
    | some r => r.fits C.rep)

/-- `rec.name <- v` (R180): a new field, or a new value of one already there. -/
def putField (fs : List (FieldName × Value)) (name : FieldName) (v : Value) : List (FieldName × Value) :=
  match fs with
  | [] => [(name, v)]
  | (n, u) :: rest => if n = name then (name, v) :: rest else (n, u) :: putField rest name v

/-- The record a notification entry decodes from a payload (R180). -/
def decodeNotif (N : NotifEntry) (A : List Byte) : NotifRec :=
  { fields := N.fields.foldl (fun fs f => putField fs f.name (decodeField f A)) []
    tail := N.tail.map fun t => { tailLen := A.length - t, bytes := A.drop t } }

end Sys2Proof.Machine
end

