-- ==== Sys2Proof/Machine/Ops.lean ====
section
/-! DEFINITION. The named operations over one link: outputs, discards (the block's only error mechanism: it takes no
exception, R220), the framer (40_link_framer.md), the transport (41), the command engine (42), reset (70), the host's
record accesses (20), and the choice of the addressed link (R67). -/

namespace Sys2Proof.Machine

/-- What an operation on one link answers. -/
abbrev LinkOut := Host.Outcome Link Fault Refusal

/-- Goes on with `f` from a next state; a stop stays a stop. -/
def andThen {σ τ : Type} (o : Host.Outcome σ Fault Refusal) (f : σ → Host.Outcome τ Fault Refusal) :
    Host.Outcome τ Fault Refusal :=
  match o with
  | .next s => f s
  | .fault r => .fault r
  | .refused r => .refused r

/-- Maps the next state; a stop stays a stop. -/
def onNext {σ τ : Type} (o : Host.Outcome σ Fault Refusal) (f : σ → τ) : Host.Outcome τ Fault Refusal :=
  andThen o fun s => .next (f s)

/-- The machine with its addressed link replaced. -/
def State.setLink (s : State) (l : Link) : State := { s with link := l }

/-- An operation on the addressed link, as an operation of the machine. -/
def State.lift (s : State) (o : LinkOut) : Host.Outcome State Fault Refusal := onNext o s.setLink

/-! ### Outputs and discards (R12) -/

/-- `Emit(TX, b)` for each byte. -/
def Link.emit (l : Link) (bs : List Byte) : Link := { l with tx := l.tx ++ bs.map TxOut.byte }

/-- `Emit(TX, FLUSH)`. -/
def Link.flush (l : Link) : Link := { l with tx := l.tx ++ [.flush] }

/-- `Emit(EV, e)`. -/
def Link.event (l : Link) (e : Event) : Link := { l with ev := l.ev ++ [e] }

/-- `Return(s)` of an INVOKE. -/
def Link.answer (l : Link) (st : Status) : Link := { l with statuses := l.statuses ++ [st] }

/-- `Discard(cause)` (R221): nothing but the model's own trace changes. -/
def Link.discard (l : Link) (c : Discard) : Link := { l with discards := l.discards ++ [c] }

/-! ### CRC-16 (R100) -/

/-- CRC_STEP(c, b) (R100). -/
def crcStep (p : Params) (c : Crc) (b : Byte) : Crc := (c >>> 8) ^^^ p.tableAt ((c ^^^ b.setWidth 16).setWidth 8)

/-- `CRC(c, s)` (R100). -/
def crcFold (p : Params) (c : Crc) (s : List Byte) : Crc := s.foldl (crcStep p) c

/-! ### Byte stuffing and frames on the wire (R71, R73) -/

/-- The wire bytes of one unescaped byte (R71). -/
def stuffByte (p : Params) (u : Byte) : List Byte :=
  if u = p.delim ∨ u = p.esc then [p.esc, u ^^^ p.mask] else [u]

/-- `stuff` of R73. -/
def stuff (p : Params) (s : List Byte) : List Byte := s.flatMap (stuffByte p)

/-- The frame check sequence of a link payload, low byte first (R55, R73). -/
def fcsBytes (p : Params) (P : List Byte) : List Byte :=
  let F := ~~~ crcFold p p.seed P
  [F.lo, F.hi]

/-- A frame on the wire (R73). -/
def frameBytes (p : Params) (P : List Byte) : List Byte := p.delim :: (stuff p (P ++ fcsBytes p P) ++ [p.delim])

/-! ### Link Framer, transmit path (R110 to R112) -/

/-- TX_OPEN() (R110). -/
def txOpen (p : Params) (l : Link) : Link := { l with txCrc := p.seed }.emit [p.delim]

/-- TX_WRITE(u) (R111). -/
def txWrite (p : Params) (u : Byte) (l : Link) : Link :=
  { l with txCrc := crcStep p l.txCrc u }.emit (stuffByte p u)

/-- TX_WRITE of each byte in order. -/
def txWrites (p : Params) (us : List Byte) (l : Link) : Link := us.foldl (fun l u => txWrite p u l) l

/-- TX_CLOSE() (R112): the complement of the running CRC, low byte first, the delimiter, the flush. -/
def txClose (p : Params) (l : Link) : Link :=
  let F := ~~~ l.txCrc
  ((txWrite p F.hi (txWrite p F.lo l)).emit [p.delim]).flush

/-! ### Command Engine: notifications (R180 to R182) -/

/-- NOTIF_DECODE(cmd, A) (R180), its checks in the order of R181. -/
def notifDecode (p : Params) (cmd : Byte) (A : List Byte) (l : Link) : Link :=
  match p.ncat.find? (fun N => decide (N.cmdId = cmd)) with
  | none => l.discard .unknownNotif
  | some N =>
    if A.length < N.minLen then l.discard .shortNotif
    else if p.notifCap < N.size A.length then l.discard .notifBuf
    else { l with notifRec := some (decodeNotif N A) }.event (.notifReady cmd p.noSubcmd)

/-! ### Command Engine: replies (R174 to R178) -/

/-- The completion of a reply that passed R174 to R176: the writes of R177 into an existing record, then R178. -/
def completeReply (p : Params) (C : CmdEntry) (cmd rc : Byte) (R : List Byte) (l : Link) : LinkOut :=
  match findReply l.replies l.slotDst with
  | none => .fault .noReplyRecord
  | some r =>
    let r1 := { r with rc := some rc }
    if rc = p.rcOk then
      if r.hasFields C.rep then
        .next { { l with replies := putReply l.replies l.slotDst (r1.writeAll C.rep R) }.event (.replyReady cmd) with
          busy := false }
      else .fault .noReplyRecord
    else
      .next { { l with replies := putReply l.replies l.slotDst r1 }.event (.replyReady cmd) with busy := false }

/-- The sub-identifier check of R175 fails: no byte after the result code, or another one. -/
def subIdWrong (R : List Byte) (subId : Byte) : Bool := decide (R.head? ≠ some subId)

/-- REPLY_HANDLE(e, cmd, rc, R) (R174), its checks in the order of R227. -/
def replyHandle (p : Params) (e : Nat) (cmd rc : Byte) (R : List Byte) (l : Link) : LinkOut :=
  if l.busy = false ∨ l.slotCmdId ≠ cmd then .next (l.discard .notPending)
  else
    match p.cat[e]? with
    | none => .refused .operandRange
    | some C =>
      if C.param && subIdWrong R l.slotSubId then .next (l.discard .subId)
      else if rc = p.rcOk ∧ R.length < C.minReply then .next (l.discard .shortReply)
      else completeReply p C cmd rc R l

/-! ### Packet Transport, receive path (R143 to R149) -/

/-- The three header bytes of an acknowledgement go out (R80, R148). -/
def ackHeader (p : Params) (cmd : Byte) (l : Link) : Link := txWrites p [cmd, 0, ackFlags l.rxSeq] l

/-- SEND_ACK(cmd) (R148). -/
def sendAck (p : Params) (cmd : Byte) (l : Link) : Link := txClose p (ackHeader p cmd (txOpen p l))

/-- The part of PEER_PATH before the acknowledgement (R146, R147). -/
def peerAccept (p : Params) (cmd flags : Byte) (A : List Byte) (l : Link) : Link :=
  if isNewFrame flags l then
    let l1 := { l with rxSeq := seqOf flags }
    if A.isEmpty then l1 else notifDecode p cmd A l1
  else l.discard .duplicate

/-- PEER_PATH(cmd, flags, A) (R146): the acknowledgement goes out in every case. -/
def peerPath (p : Params) (cmd flags : Byte) (A : List Byte) (l : Link) : Link :=
  sendAck p cmd (peerAccept p cmd flags A l)

/-- REPLY_PATH(cmd, A) (R144, R145). -/
def replyPath (p : Params) (cmd : Byte) (A : List Byte) (l : Link) : LinkOut :=
  match A with
  | [] => .next (l.discard .noRc)
  | rc :: R =>
    if l.regValid = true ∧ l.regCmdId = cmd then
      replyHandle p l.regEntry cmd rc R { l with regValid := false }
    else .next (l.discard .unexpectedReply)

/-- FRAME_RECEIVED(P) (R143). -/
def frameReceived (p : Params) (P : List Byte) (l : Link) : LinkOut :=
  match P with
  | cmd :: len :: flags :: A =>
    if A.length ≠ len.toNat then .next (l.discard .length)
    else if isResponse flags then replyPath p cmd A l
    else .next (peerPath p cmd flags A l)
  | _ => .next (l.discard .short)

/-! ### Link Framer, receive path (R103 to R109) -/

/-- RX_OPEN() (R104). -/
def rxOpen (p : Params) (l : Link) : Link := { l with rxFill := 0, rxCrc := p.seed, rxState := .receiving }

/-- RX_ABORT() (R106). -/
def rxAbort (l : Link) : Link := { l with rxFill := 0, rxState := .idle }.discard .overflow

/-- The last lines of RX_ADD (R105): an unescaped byte is stored and folded, or the frame aborted. -/
def rxStore (p : Params) (b : Byte) (l : Link) : Link :=
  if l.rxFill = p.rxCap then rxAbort l
  else { l with rxBuf := l.rxBuf.set l.rxFill b, rxFill := l.rxFill + 1, rxCrc := crcStep p l.rxCrc b }

/-- RX_ADD(b) (R105). -/
def rxAdd (p : Params) (b : Byte) (l : Link) : Link :=
  if b = p.esc then { l with rxEsc := true }
  else if l.rxEsc then rxStore p (b ^^^ p.mask) { l with rxEsc := false }
  else rxStore p b l

/-- The closing writes of RX_CLOSE (R107). -/
def rxShut (l : Link) : Link := { l with rxEsc := false, rxFill := 0, rxState := .idle }

/-- RX_CLOSE() (R107). -/
def rxClose (p : Params) (l : Link) : LinkOut :=
  if 2 ≤ l.rxFill ∧ l.rxCrc = p.good then
    if l.rxFill - 2 = 0 then .next ((rxShut l).discard .empty)
    else frameReceived p (l.rxBuf.take (l.rxFill - 2)) (rxShut l)
  else .next ((rxShut l).discard .crc)

/-- The arms of RX_BYTE before its last line (R103). -/
def rxArm (p : Params) (b : Byte) (l : Link) : LinkOut :=
  match l.rxState with
  | .idle => if l.rxLastDelim = true ∧ b ≠ p.delim then .next (rxAdd p b (rxOpen p l)) else .next l
  | .receiving => if b ≠ p.delim then .next (rxAdd p b l) else rxClose p l

/-- RX_BYTE(b) (R103), ending with R108. -/
def rxByte (p : Params) (b : Byte) (l : Link) : LinkOut :=
  onNext (rxArm p b l) fun l => { l with rxLastDelim := decide (b = p.delim) }

/-! ### Packet Transport, send path (R140 to R142) -/

/-- The three header bytes of a command frame go out, with the bits R141 computes (R81). The send state stays: only a
command frame, which SEND_COMMAND sends, writes `txFirst` and `txSeq` (R28, R140, R142). -/
def commandHeader (p : Params) (cmd len extraFlags : Byte) (l : Link) : Link :=
  txWrites p [cmd, len, commandFlags extraFlags (nextSeq l) (nextSync l)] l

/-- SEND_COMMAND(cmd, extraFlags, A, e) (R140) for operands its rule admits. -/
def sendFrame (p : Params) (cmd extraFlags : Byte) (A : List Byte) (e : Nat) (l : Link) : Link :=
  let l1 := { l with regValid := true, regCmdId := cmd, regEntry := e }
  let l2 := commandHeader p cmd (BitVec.ofNat 8 A.length) extraFlags (txOpen p l1)
  { txClose p (txWrites p A l2) with txFirst := false, txSeq := nextSeq l ^^^ 1 }

/-- SEND_COMMAND(cmd, extraFlags, A, e) (R140): `e` indexes CAT and `|A| ≤ 255`. -/
def sendCommand (p : Params) (cmd extraFlags : Byte) (A : List Byte) (e : Nat) (l : Link) : LinkOut :=
  if e < p.cat.length ∧ A.length ≤ 255 then .next (sendFrame p cmd extraFlags A e l)
  else .refused .operandRange

/-! ### Host transactions (R170, R173, R250) -/

/-- INVOKE(e, args, dst) (R170). -/
def invoke (p : Params) (e : Nat) (args : List Value) (dst : Nat) (l : Link) : LinkOut :=
  match p.cat[e]? with
  | none => .refused .encodingMisuse
  | some C =>
    if reqWf C args (findReply l.replies dst) then
      if l.busy then .next (l.answer .busy)
      else
        onNext (sendCommand p C.cmdId 0 (encodeRequest C args) e l) fun l1 =>
          { l1 with busy := true, slotCmdId := C.cmdId, slotEntry := e, slotSubId := C.subId, slotDst := dst }.answer .ok
    else .refused .encodingMisuse

/-- CANCEL() (R173). -/
def cancel (l : Link) : Link := { l with busy := false }

/-- RESET() (R250), its unspecified registers the `n`-th free values (assumptions 4 and 5). -/
def resetLink (p : Params) (n : Nat) (l : Link) : Link :=
  { l with
    rxState := .idle, rxEsc := false, rxFill := 0, rxLastDelim := false
    txFirst := true, txSeq := 0
    rxSeq := Config.rxSeqDraw n
    regValid := false
    busy := false
    notifRec := none
    rxCrc := Config.rxCrcDraw n
    rxBuf := (List.range p.rxCap).map (Config.rxBufDraw n)
    txCrc := Config.txCrcDraw n
    regCmdId := Config.regCmdIdDraw n, regEntry := Config.regEntryDraw n
    slotCmdId := Config.slotCmdIdDraw n, slotEntry := Config.slotEntryDraw n
    slotSubId := Config.slotSubIdDraw n, slotDst := Config.slotDstDraw n }

/-! ### Host accesses to the records (R52, R53, R259) -/

/-- The record is borrowed by the pending command (R52): from an accepted INVOKE until `ReplyReady`, CANCEL or RESET. -/
def Link.borrowed (l : Link) (dst : Nat) : Bool := l.busy && decide (l.slotDst = dst)

/-- A host read of one part of a reply record (R52, I9). -/
def readReply (dst : Nat) (sel : ReplySel) (l : Link) : LinkOut :=
  if l.borrowed dst then .refused .borrowed
  else
    match findReply l.replies dst with
    | none => .fault .noReplyRecord
    | some r =>
      match sel with
      | .rc =>
        match r.rc with
        | none => .fault .replyUnwritten
        | some v => .next { l with reads := l.reads ++ [.replyRc dst v] }
      | .field name =>
        match r.fields.find? (fun g => decide (g.name = name)) with
        | none => .fault .noReplyRecord
        | some g =>
          match g.val with
          | none => .fault .replyUnwritten
          | some v => .next { l with reads := l.reads ++ [.replyField dst name v] }

/-- A host access to a record (R52, R53). A host write gives the whole typed record (assumption 16). -/
def hostAccess (a : HostAccess) (l : Link) : LinkOut :=
  match a with
  | .readNotif =>
    match l.notifRec with
    | none => .fault .notifUnread
    | some r => .next { l with reads := l.reads ++ [.notif r] }
  | .readReply dst sel => readReply dst sel l
  | .writeReply dst r =>
    if l.borrowed dst then .refused .borrowed
    else if !r.ok then .refused .operandRange
    else .next { l with replies := putReply l.replies dst r }

/-! ### Link instances (R67) -/

/-- All link instances, in order. -/
def State.links (s : State) : List Link := s.before ++ s.link :: s.after

/-- The machine addressing link instance `k`, if there is one. -/
def State.focus (s : State) (k : Nat) : Option State :=
  match s.links.drop k with
  | [] => none
  | l :: rest => some { s with before := s.links.take k, link := l, after := rest }

end Sys2Proof.Machine
end

