-- ==== Sys2Proof/Machine/Engine.lean ====
section
/-! DEFINITION. The meanings of the Command Engine's procedures (42_command_engine.md). -/

namespace Sys2Proof.Machine

/-- REPLY_HANDLE (R174 to R178). -/
def execReplyHandle (e : Nat) (cmd rc : Byte) (R : List Byte) (s : State) : Host.Outcome State Fault Refusal :=
  s.lift (replyHandle s.cfg.toParams e cmd rc R s.link)

/-- NOTIF_DECODE (R180 to R182). -/
def execNotifDecode (cmd : Byte) (A : List Byte) (s : State) : Host.Outcome State Fault Refusal :=
  .next (s.setLink (notifDecode s.cfg.toParams cmd A s.link))

end Sys2Proof.Machine
end

