-- ==== Sys2Proof/Machine/Framer.lean ====
section
/-! DEFINITION. The meanings of the Link Framer's rows (40_link_framer.md): the wire byte classes and the framer's
procedures. A procedure row run by itself runs the procedure's body (assumption 8). -/

namespace Sys2Proof.Machine

/-- WIRE_DELIM (R70, R103, R107): the delimiter is received. -/
def execWireDelim (s : State) : Host.Outcome State Fault Refusal := s.lift (rxByte s.cfg.toParams s.cfg.delim s.link)

/-- WIRE_ESC (R70, R103, R105): the escape byte is received. -/
def execWireEsc (s : State) : Host.Outcome State Fault Refusal := s.lift (rxByte s.cfg.toParams s.cfg.esc s.link)

/-- WIRE_DATA (R70, R103, R105): a data byte is received. -/
def execWireData (d : Byte) (s : State) : Host.Outcome State Fault Refusal := s.lift (rxByte s.cfg.toParams d s.link)

/-- CRC_STEP (R100): a pure function; its value is left in the model's `crcOut` (assumption 13). -/
def execCrcStep (c : Crc) (b : Byte) (s : State) : Host.Outcome State Fault Refusal :=
  .next (s.setLink { s.link with crcOut := crcStep s.cfg.toParams c b })

/-- RX_OPEN (R104). -/
def execRxOpen (s : State) : Host.Outcome State Fault Refusal := .next (s.setLink (rxOpen s.cfg.toParams s.link))

/-- RX_ADD (R105). -/
def execRxAdd (b : Byte) (s : State) : Host.Outcome State Fault Refusal :=
  .next (s.setLink (rxAdd s.cfg.toParams b s.link))

/-- RX_ABORT (R106): "The overflowing byte is not stored and not folded into the CRC", so `d` has no effect. -/
def execRxAbort (_d : Byte) (s : State) : Host.Outcome State Fault Refusal := .next (s.setLink (rxAbort s.link))

/-- RX_CLOSE (R107). -/
def execRxClose (s : State) : Host.Outcome State Fault Refusal := s.lift (rxClose s.cfg.toParams s.link)

/-- TX_OPEN (R110). -/
def execTxOpen (s : State) : Host.Outcome State Fault Refusal := .next (s.setLink (txOpen s.cfg.toParams s.link))

/-- TX_WRITE (R111). -/
def execTxWrite (u : Byte) (s : State) : Host.Outcome State Fault Refusal :=
  .next (s.setLink (txWrite s.cfg.toParams u s.link))

/-- TX_CLOSE (R112). -/
def execTxClose (s : State) : Host.Outcome State Fault Refusal := .next (s.setLink (txClose s.cfg.toParams s.link))

end Sys2Proof.Machine
end

