-- ==== Sys2Proof/Machine/HostPort.lean ====
section
/-! DEFINITION. The meanings of the host transactions (R85): RX_BYTE, INVOKE, CANCEL, RESET. -/

namespace Sys2Proof.Machine

/-- RX_BYTE (R103). -/
def execRxByte (b : Byte) (s : State) : Host.Outcome State Fault Refusal := s.lift (rxByte s.cfg.toParams b s.link)

/-- INVOKE (R170 to R172). -/
def execInvoke (e : Nat) (args : List Value) (dst : Nat) (s : State) : Host.Outcome State Fault Refusal :=
  s.lift (invoke s.cfg.toParams e args dst s.link)

/-- CANCEL (R173). -/
def execCancel (s : State) : Host.Outcome State Fault Refusal := .next (s.setLink (cancel s.link))

/-- RESET (R250), with the next draw of the free values (assumptions 4 to 6). -/
def execReset (s : State) : Host.Outcome State Fault Refusal :=
  .next { s with link := resetLink s.cfg.toParams s.draws s.link, draws := s.draws + 1 }

end Sys2Proof.Machine
end

