-- ==== Sys2Proof/Machine/Transport.lean ====
section
/-! DEFINITION. The meanings of the Packet Transport's rows (41_packet_transport.md): received headers, sent headers and
the transport's procedures. The `y` and `s` bits of a sent header's word are what the rules compute, not operands
(assumption 11). -/

namespace Sys2Proof.Machine

/-- HDR_REPLY (R77, R143, R144): a link payload with this header is received. -/
def execHdrReply (cmd len flags : Byte) (A : List Byte) (s : State) : Host.Outcome State Fault Refusal :=
  s.lift (frameReceived s.cfg.toParams (cmd :: len :: flags :: A) s.link)

/-- HDR_PEER_SYNC (R77, R143, R146). -/
def execHdrPeerSync (cmd len flags : Byte) (A : List Byte) (s : State) : Host.Outcome State Fault Refusal :=
  s.lift (frameReceived s.cfg.toParams (cmd :: len :: flags :: A) s.link)

/-- HDR_PEER_NOSYNC (R77, R143, R146). -/
def execHdrPeerNosync (cmd len flags : Byte) (A : List Byte) (s : State) : Host.Outcome State Fault Refusal :=
  s.lift (frameReceived s.cfg.toParams (cmd :: len :: flags :: A) s.link)

/-- HDR_COMMAND_OUT (R81, R141): the three header bytes of a command frame, its SYNC and SEQUENCE bits from `txFirst`
and `txSeq`, with the engine's `extraFlags` 0x00 (D24). No command frame is sent, so both registers stay (R28, R142). That
the header goes out by itself, with no frame around it, is the model's choice (assumptions 8, 11 and 26). -/
def execHdrCommandOut (cmd len : Byte) (_y _s : Bit) (s : State) : Host.Outcome State Fault Refusal :=
  .next (s.setLink (commandHeader s.cfg.toParams cmd len 0 s.link))

/-- HDR_ACK_OUT (R80, R148): the three header bytes of an acknowledgement, its SEQUENCE bit from `rxSeq`. That it sends
them by itself, with no frame around them, is the model's choice (assumptions 8, 11 and 26). -/
def execHdrAckOut (cmd : Byte) (_s : Bit) (s : State) : Host.Outcome State Fault Refusal :=
  .next (s.setLink (ackHeader s.cfg.toParams cmd s.link))

/-- SEND_COMMAND (R140 to R142). -/
def execSendCommand (cmd : Byte) (_y _s : Bit) (extraFlags : Byte) (A : List Byte) (e : Nat) (s : State) :
    Host.Outcome State Fault Refusal :=
  s.lift (sendCommand s.cfg.toParams cmd extraFlags A e s.link)

/-- FRAME_RECEIVED (R143). -/
def execFrameReceived (P : List Byte) (s : State) : Host.Outcome State Fault Refusal :=
  s.lift (frameReceived s.cfg.toParams P s.link)

/-- REPLY_PATH (R144, R145); the flag bits `x` are ignored (R150). -/
def execReplyPath (cmd : Byte) (_x : BitVec 7) (A : List Byte) (s : State) : Host.Outcome State Fault Refusal :=
  s.lift (replyPath s.cfg.toParams cmd A s.link)

/-- PEER_PATH (R146). -/
def execPeerPath (cmd flags : Byte) (A : List Byte) (s : State) : Host.Outcome State Fault Refusal :=
  .next (s.setLink (peerPath s.cfg.toParams cmd flags A s.link))

/-- SEND_ACK (R148, R149). -/
def execSendAck (cmd : Byte) (_s : Bit) (s : State) : Host.Outcome State Fault Refusal :=
  .next (s.setLink (sendAck s.cfg.toParams cmd s.link))

end Sys2Proof.Machine
end

