-- ==== Sys2Proof/Machine/Dispatch.lean ====
section
/-! DEFINITION. The meaning of every operation, by one call each. -/

namespace Sys2Proof.Machine

def exec (i : Instr) (s : State) : Host.Outcome State Fault Refusal :=
  match i with
  | .rxByte b => Sys2Proof.Machine.execRxByte b s
  | .invoke e args dst => Sys2Proof.Machine.execInvoke e args dst s
  | .cancel => Sys2Proof.Machine.execCancel s
  | .reset => Sys2Proof.Machine.execReset s
  | .wireDelim => Sys2Proof.Machine.execWireDelim s
  | .wireEsc => Sys2Proof.Machine.execWireEsc s
  | .wireData d => Sys2Proof.Machine.execWireData d s
  | .hdrReply cmd len flags A => Sys2Proof.Machine.execHdrReply cmd len flags A s
  | .hdrPeerSync cmd len flags A => Sys2Proof.Machine.execHdrPeerSync cmd len flags A s
  | .hdrPeerNosync cmd len flags A => Sys2Proof.Machine.execHdrPeerNosync cmd len flags A s
  | .hdrCommandOut cmd len y q => Sys2Proof.Machine.execHdrCommandOut cmd len y q s
  | .hdrAckOut cmd q => Sys2Proof.Machine.execHdrAckOut cmd q s
  | .crcStep c b => Sys2Proof.Machine.execCrcStep c b s
  | .rxOpen => Sys2Proof.Machine.execRxOpen s
  | .rxAdd b => Sys2Proof.Machine.execRxAdd b s
  | .rxAbort d => Sys2Proof.Machine.execRxAbort d s
  | .rxClose => Sys2Proof.Machine.execRxClose s
  | .txOpen => Sys2Proof.Machine.execTxOpen s
  | .txWrite u => Sys2Proof.Machine.execTxWrite u s
  | .txClose => Sys2Proof.Machine.execTxClose s
  | .sendCommand cmd y q extra A e => Sys2Proof.Machine.execSendCommand cmd y q extra A e s
  | .frameReceived P => Sys2Proof.Machine.execFrameReceived P s
  | .replyPath cmd x A => Sys2Proof.Machine.execReplyPath cmd x A s
  | .peerPath cmd flags A => Sys2Proof.Machine.execPeerPath cmd flags A s
  | .sendAck cmd q => Sys2Proof.Machine.execSendAck cmd q s
  | .replyHandle e cmd rc R => Sys2Proof.Machine.execReplyHandle e cmd rc R s
  | .notifDecode cmd A => Sys2Proof.Machine.execNotifDecode cmd A s

end Sys2Proof.Machine
end

