-- ==== Sys2Proof/Machine/Step.lean ====
section
/-! DEFINITION. One step of the machine: the next item of the script, decoded and run on the link instance it addresses
(R13, R62, R67, R264). -/

namespace Sys2Proof.Machine

/-- The machine that runs the script's first item: the item is taken off, the link instance it names is addressed. -/
def State.fetch (s : State) : Option (Item × List Item) :=
  match s.script with
  | [] => none
  | it :: rest => some (it, rest)

/-- Runs one item on the machine that addresses its link instance. -/
def runItem (a : Act) (s : State) : Host.Outcome State Fault Refusal :=
  match a with
  | .host h => s.lift (hostAccess h s.link)
  | .txn t =>
    match decode s.cfg.toParams t with
    | .op i => exec i s
    | .reject r => .refused (.undecodable r)

/-- One step (R13): the script's next item. -/
def step (s : State) : Host.Outcome State Fault Refusal :=
  match s.fetch with
  | none => .refused .scriptExhausted
  | some (it, rest) =>
    match State.focus { s with script := rest } it.inst with
    | none => .refused .noSuchInstance
    | some s1 => runItem it.act s1

/-- `s` with a table word as the script's next item, addressed to the link instance `s` addresses. -/
def State.withFetchWord (s : State) (nbits w : Nat) : State :=
  { s with script := ⟨s.before.length, .txn (tableTxn nbits w)⟩ :: s.script }

end Sys2Proof.Machine
end

