-- ==== Sys2Proof/Safety.lean ====
section
/-! DEFINITION. What counts as a good state and a good run: the invariants of R37, what an accepted INVOKE leaves for
its reply (R172, R177), the stall state (R38), quiescence (R264), and runs of received bytes and of host transactions. -/

namespace Sys2Proof.Machine

/-- R37(a) to (c): an idle framer has no escape pending and an empty buffer, and the fill is within the buffer. -/
def Link.framerInv (p : Params) (l : Link) : Prop :=
  (l.rxState = .idle → l.rxEsc = false) ∧ l.rxFill ≤ p.rxCap ∧ (l.rxState = .idle → l.rxFill = 0)

/-- R37(d): a registration held while a command is outstanding is that command's. -/
def Link.regInv (l : Link) : Prop :=
  l.busy = true → l.regValid = true → l.regCmdId = l.slotCmdId ∧ l.regEntry = l.slotEntry

/-- While a command is outstanding its slot names a catalog entry, that entry's identifiers, and a reply record with
the entry's fields: what REQ_WF checked when the command was accepted (R170, R172). -/
def Link.slotInv (p : Params) (l : Link) : Prop :=
  l.busy = true → ∃ C r, p.cat[l.slotEntry]? = some C ∧ l.slotCmdId = C.cmdId ∧ l.slotSubId = C.subId ∧
    findReply l.replies l.slotDst = some r ∧ r.fits C.rep = true

/-- The invariant of one link between transactions: R37, the pending slot, and well-formed storage. -/
def Link.inv (p : Params) (l : Link) : Prop :=
  l.framerInv p ∧ l.regInv ∧ l.slotInv p ∧ Memory.wf p l = true

/-- Every link has well-formed storage, and there are `N_INST` links (R6, R67). -/
def State.storageInv (s : State) : Prop :=
  (∀ l ∈ s.links, Memory.wf s.cfg.toParams l = true) ∧ s.links.length = s.cfg.nInst

/-- Every link meets its invariant, and there are `N_INST` links. -/
def State.inv (s : State) : Prop := (∀ l ∈ s.links, l.inv s.cfg.toParams) ∧ s.links.length = s.cfg.nInst

/-- The item is a call by itself of RX_ADD, RX_ABORT or SEND_COMMAND: procedures that leave registers which the
transaction that calls them settles before it ends (R12, R103, R170). -/
def Act.isInner : Act → Bool
  | .host _ => false
  | .txn t => decide (t.port = .rxAdd) || decide (t.port = .rxAbort) || decide (t.port = .sendCommand)

/-- The stall state (R38). -/
def Link.stalled (l : Link) : Prop := l.busy = true ∧ l.regValid = false

/-- Quiescent (R264). -/
def Link.quiescent (l : Link) : Prop := l.rxState = .idle ∧ l.busy = false ∧ l.regValid = false

/-- A run of operations on the addressed link, stopping at the first fault or refusal. -/
def execAll : List Instr → State → Host.Outcome State Fault Refusal
  | [], s => .next s
  | i :: is, s => andThen (exec i s) (execAll is)

/-- A run of received bytes. -/
def rxBytes (bs : List Byte) (s : State) : Host.Outcome State Fault Refusal := execAll (bs.map Instr.rxByte) s

/-- The operation neither cancels nor resets (R38: "Only CANCEL or RESET leaves it"), and is one of the block's
transactions (R13) or a byte on its wire (R70). -/
def isTraffic : Instr → Bool
  | .rxByte _ => true
  | .invoke _ _ _ => true
  | .wireDelim => true
  | .wireEsc => true
  | .wireData _ => true
  | .cancel => false
  | .reset => false
  | .hdrReply _ _ _ _ => false
  | .hdrPeerSync _ _ _ _ => false
  | .hdrPeerNosync _ _ _ _ => false
  | .hdrCommandOut _ _ _ _ => false
  | .hdrAckOut _ _ => false
  | .crcStep _ _ => false
  | .rxOpen => false
  | .rxAdd _ => false
  | .rxAbort _ => false
  | .rxClose => false
  | .txOpen => false
  | .txWrite _ => false
  | .txClose => false
  | .sendCommand _ _ _ _ _ _ => false
  | .frameReceived _ => false
  | .replyPath _ _ _ => false
  | .peerPath _ _ _ => false
  | .sendAck _ _ => false
  | .replyHandle _ _ _ _ => false
  | .notifDecode _ _ => false

/-- The link payload of a command frame sent now with `extraFlags`: R81, its sequence and SYNC bits by R141. -/
def commandPayload (l : Link) (cmd extraFlags : Byte) (A : List Byte) : List Byte :=
  [cmd, BitVec.ofNat 8 A.length,
    extraFlags ||| ((if l.txFirst then 0 else l.txSeq).setWidth 8 <<< 1) ||| (if l.txFirst then 8 else 0)] ++ A

/-- The link payload of an acknowledgement sent while `rxSeq` is `q` (R80). -/
def ackPayload (cmd : Byte) (q : Bit) : List Byte := if q = 0 then [cmd, 0x00, 0x01] else [cmd, 0x00, 0x03]

/-- A frame's bytes and the flush, as they leave on TX (R73, R112). -/
def frameOut (p : Params) (P : List Byte) : List TxOut := (frameBytes p P).map TxOut.byte ++ [.flush]

/-! ### What the rules say of values, requests, records and configurations, written out for the statements -/

/-- The content of a decoded field (R82): for INT the sum of R11 over the bytes `s[o..o+w)`, for RAW those bytes. -/
def fieldContent (f : Field) (s : List Byte) : Value :=
  match f.kind with
  | .int => .int ((List.range f.w).map fun k => (s.getD (f.o + k) 0).toNat * 256 ^ (f.w - 1 - k)).sum
  | .raw => .raw ((List.range f.w).map fun k => s.getD (f.o + k) 0)

/-- The bytes of one request field, if the argument fits it (R172, R79): the `w` bytes `(v >> 8(w-1-k))[7:0]` of R11 for
an INT, the string itself for a RAW and a RAWVAR. -/
def requestField : ReqField → Value → Option (List Byte)
  | .int w, .int v =>
    if v < 256 ^ w then some ((List.range w).map fun k => BitVec.ofNat 8 (v >>> (8 * (w - 1 - k)))) else none
  | .raw w, .raw s => if s.length = w then some s else none
  | .rawVar m, .raw s => if s.length ≤ m then some s else none
  | .int _, .raw _ => none
  | .raw _, .int _ => none
  | .rawVar _, .int _ => none

/-- The bytes of the request fields in order, if there is one fitting argument for each (R172). -/
def requestFields : List ReqField → List Value → Option (List Byte)
  | [], [] => some []
  | f :: fs, v :: vs => (requestField f v).bind fun b => (requestFields fs vs).map (b ++ ·)
  | [], _ :: _ => none
  | _ :: _, [] => none

/-- The application payload of a request, if the arguments fit (R79, R172): the sub-identifier of a parameterized
command, then the fields. -/
def requestPayload (C : CmdEntry) (args : List Value) : Option (List Byte) :=
  (requestFields C.req args).map fun b => if C.param then C.subId :: b else b

/-- The record has one field per entry of the layout, of its name, width and kind, and no other (R52, R179). -/
def Record.HasShape (r : Record) (rep : List Field) : Prop :=
  (r.fields.map fun g => (g.name, g.w, g.kind)).Perm (rep.map fun f => (f.name, f.w, f.kind))

/-- The record's contents are of their fields' types (R52), and no two fields share a name. -/
def Record.Typed (r : Record) : Prop :=
  (r.fields.map ReplyField.name).Nodup ∧ ∀ g ∈ r.fields, ∀ v, g.val = some v →
    (g.kind = .int ∧ ∃ n, v = .int n ∧ n < 256 ^ g.w) ∨ (g.kind = .raw ∧ ∃ b, v = .raw b ∧ b.length = g.w)

/-- REQ_WF (R172): `e` names an entry, the arguments fit its request and give at most 255 bytes, and `dst` names a
record of its shape. -/
def ReqWellFormed (p : Params) (l : Link) (e dst : Nat) (args : List Value) : Prop :=
  ∃ C A r, p.cat[e]? = some C ∧ requestPayload C args = some A ∧ A.length ≤ 255 ∧
    findReply l.replies dst = some r ∧ r.HasShape C.rep

/-- R83: a well-formed command catalog entry. -/
structure MeetsR83 (C : CmdEntry) : Prop where
  intWidth : ∀ w, .int w ∈ C.req → 1 ≤ w
  rawWidth : ∀ w, .raw w ∈ C.req → 1 ≤ w
  rawVarLast : ∀ m, .rawVar m ∉ C.req.dropLast
  minReply : C.minReply ≤ 254
  fieldsFit : ∀ f ∈ C.rep, f.o + f.w ≤ C.minReply
  subIdReply : C.param = true → 1 ≤ C.minReply
  longest : (if C.param then 1 else 0) + (C.req.map ReqField.maxBytes).sum ≤ 255
  distinct : (C.rep.map Field.name).Nodup

/-- R84: a well-formed notification catalog entry. -/
structure MeetsR84 (N : NotifEntry) : Prop where
  minLen : N.minLen ≤ 255
  fieldsFit : ∀ f ∈ N.fields, f.o + f.w ≤ N.minLen
  tailFits : ∀ t, N.tail = some t → t ≤ N.minLen

/-- R7: the constraints (a) to (f) on a configuration, with the residue of R102, R83 and R84 written out. -/
structure MeetsR7 (p : Params) : Prop where
  a : p.delim ≠ p.esc
  b : p.mask ≠ 0x00
  c : p.delim ^^^ p.mask ≠ p.delim ∧ p.delim ^^^ p.mask ≠ p.esc ∧
      p.esc ^^^ p.mask ≠ p.delim ∧ p.esc ^^^ p.mask ≠ p.esc
  d : p.good = (p.tableAt 0xFF >>> 8) ^^^ p.tableAt (0xFF ^^^ (p.tableAt 0xFF).setWidth 8)
  e : 6 ≤ p.rxCap ∧ p.rxCap ≤ 260
  f : (∀ C ∈ p.cat, MeetsR83 C) ∧ (∀ N ∈ p.ncat, MeetsR84 N) ∧ (p.ncat.map NotifEntry.cmdId).Nodup

/-- A reply to the pending command that passes R174 to R176, with the catalog entry and the record it completes. A
successful one writes the entry's fields, which the record has. -/
structure ReplyAccepted (p : Params) (l : Link) (e : Nat) (cmd rc : Byte) (R : List Byte) (C : CmdEntry) (r : Record) :
    Prop where
  busy : l.busy = true
  cmdId : l.slotCmdId = cmd
  entry : p.cat[e]? = some C
  subId : C.param = true → R.head? = some l.slotSubId
  long : rc = p.rcOk → C.minReply ≤ R.length
  found : findReply l.replies l.slotDst = some r
  fields : rc = p.rcOk → ∀ f ∈ C.rep, fieldShape f ∈ r.shape

/-- What R177 leaves in the record: the result code, and on success every field of the layout with the content R82
decodes; every other field, and on failure every field, keeps its content. -/
structure RecordWritten (p : Params) (C : CmdEntry) (rc : Byte) (R : List Byte) (r r' : Record) : Prop where
  rcWritten : r'.rc = some rc
  failure : rc ≠ p.rcOk → r'.fields = r.fields
  decoded : rc = p.rcOk → ∀ f ∈ C.rep, ∀ g ∈ r'.fields, g.name = f.name → g.val = some (fieldContent f R)
  kept : ∀ g ∈ r.fields, g.name ∉ C.rep.map Field.name → g ∈ r'.fields
  typed : r'.shape = r.shape

end Sys2Proof.Machine
end

