-- ==== Sys2Proof/Certificates/Slice0/Obligations.lean ====
section
/-! DEFINITION. The statements for the provers. Each names the rule of spec/ it formalises; `s.link` is the link
instance the operation runs on. A next state written as an update of `s.link` says that every register, record and
output not named in it is unchanged. -/

open Sys2Proof Sys2Proof.Machine

/-! ### Encoding -/

/-- R85, R70, R75 to R81 and the opcode table: decoding an encoded well-formed operation gives it back. -/
def Obligations.DecodeOfEncode : Prop :=
  ∀ (c : Config) (i : Instr), i.wf c.toParams = true → decode c.toParams (encode c.toParams i) = .op i

/-- The other direction: a transaction that decodes to an operation is that operation's encoding, and the operation is
well formed. -/
def Obligations.EncodeOfDecode : Prop :=
  ∀ (c : Config) (t : Txn) (i : Instr), decode c.toParams t = .op i →
    i.wf c.toParams = true ∧ encode c.toParams i = t

/-- Eight words of the opcode table under the default constants of R6. The codes and header bits are the spec's (R75 to
R77, R85). That a bare word of one byte is read at the host's port where it is 0 to 3 (these bytes are WIRE_DATA words too,
R70) and at the wire otherwise, and that its operands are 0 or empty, is the model's choice (DESIGN CHOICE, assumption 9);
the constants are assumption 1. -/
def Obligations.DecodeTableWords : Prop :=
  decodeTableWord 8 0b00000000 = some (.rxByte 0) ∧
  decodeTableWord 8 0b00000001 = some (.invoke 0 [] 0) ∧
  decodeTableWord 8 0b00000010 = some .cancel ∧
  decodeTableWord 8 0b00000011 = some .reset ∧
  decodeTableWord 8 0b01111110 = some .wireDelim ∧
  decodeTableWord 8 0b01111101 = some .wireEsc ∧
  decodeTableWord 24 0b001100010000000000000001 = some (.hdrReply 0x31 0 0x01 []) ∧
  decodeTableWord 24 0b010000010000000000001010 = some (.hdrPeerSync 0x41 0 0x0A [])

/-- R70: each received byte belongs to exactly one class, and the class's operation is the reception of that byte. -/
def Obligations.WireByteClasses : Prop :=
  ∀ (s : State) (b : Byte),
    decode s.cfg.toParams ⟨.wire, [b], .none⟩ = .op (decodeWireByte s.cfg.toParams b) ∧
    (b = s.cfg.delim → decodeWireByte s.cfg.toParams b = .wireDelim) ∧
    (b = s.cfg.esc → decodeWireByte s.cfg.toParams b = .wireEsc) ∧
    (b ≠ s.cfg.delim → b ≠ s.cfg.esc → decodeWireByte s.cfg.toParams b = .wireData b) ∧
    exec (decodeWireByte s.cfg.toParams b) s = exec (.rxByte b) s

/-! ### Steps -/

/-- R13, R62: a step runs the decoded operation of the script's next item on the link instance it addresses, with the
rest of the script left and everything else as it was. -/
def Obligations.StepRunsDecoded : Prop :=
  ∀ (s : State) (it : Item) (rest : List Item) (t : Txn) (i : Instr) (l : Link),
    s.script = it :: rest → it.act = .txn t → decode s.cfg.toParams t = .op i → s.links[it.inst]? = some l →
    ∃ s1 : State, step s = exec i s1 ∧ s1.link = l ∧ s1.before.length = it.inst ∧ s1.links = s.links ∧
      s1.cfg = s.cfg ∧ s1.draws = s.draws ∧ s1.script = rest

/-- R35, R67: a step writes no configuration, takes one item off the script, and leaves every link instance that the
item does not address as it was. That this takes in the reply records, one store per instance, is the model's choice
(DESIGN CHOICE, assumption 27). -/
def Obligations.StepLeavesOtherLinks : Prop :=
  ∀ (s t : State) (it : Item) (rest : List Item), s.script = it :: rest → step s = .next t →
    t.cfg = s.cfg ∧ t.script = rest ∧ t.links.length = s.links.length ∧
    ∀ k, k ≠ it.inst → t.links[k]? = s.links[k]?

/-! ### Invariants -/

/-- R25, R37(b), R51, R52: every step, whatever its item, keeps every link's storage well formed and the number of link
instances. -/
def Obligations.EveryStepKeepsStorage : Prop :=
  ∀ s t : State, s.storageInv → step s = .next t → t.storageInv

/-- R37: every step keeps the invariants of every link, unless its item calls RX_ADD, RX_ABORT or SEND_COMMAND by
itself, outside the transaction it belongs to. -/
def Obligations.EveryTransactionKeepsInvariant : Prop :=
  ∀ s t : State, s.inv → (∀ it ∈ s.script.head?, it.act.isInner = false) → step s = .next t → t.inv

/-- The state after reset meets both invariants. -/
def Obligations.ResetMeetsInvariants : Prop := State.reset.inv ∧ State.reset.storageInv

/-- R250: the registers the spec gives a reset value, in the state after reset. -/
def Obligations.ResetValues : Prop :=
  State.reset.link.rxState = .idle ∧ State.reset.link.rxEsc = false ∧ State.reset.link.rxFill = 0 ∧
  State.reset.link.rxLastDelim = false ∧ State.reset.link.txFirst = true ∧ State.reset.link.txSeq = 0 ∧
  State.reset.link.regValid = false ∧ State.reset.link.busy = false ∧ State.reset.link.notifRec = none ∧
  State.reset.link.tx = [] ∧ State.reset.link.ev = []

/-! ### Link Framer: CRC and transmit path -/

/-- R102: continuing a CRC through its complement's bytes, low byte first, gives GOOD, whatever the CRC; GOOD is the
table's formula; under the default table it is 0xF0B8. -/
def Obligations.ResidueIsFixedByTable : Prop :=
  (∀ (c : Config) (v : Crc),
    crcFold c.toParams v [(~~~ v).setWidth 8, (~~~ v >>> 8).setWidth 8] = c.good ∧
    c.good = (c.tableAt 0xFF >>> 8) ^^^ c.tableAt (0xFF ^^^ (c.tableAt 0xFF).setWidth 8)) ∧
  Params.tc.tableAt 0xFF = 0x0F78 ∧ Params.tc.tableAt 0x87 = 0xF0B7 ∧ Params.tc.good = 0xF0B8

/-- R100: CRC_STEP computes `(c >> 8) ^ TABLE[(c ^ b) & 0xFF]` and writes no register; its value is left in the model's
`crcOut` (the model's choice, assumption 13). -/
def Obligations.CrcStepValue : Prop :=
  ∀ (s : State) (c : Crc) (b : Byte), ∃ v : Crc,
    s.cfg.table[((c ^^^ b.setWidth 16) &&& 0xFF).toNat]? = some v ∧
    exec (.crcStep c b) s = .next (s.setLink { s.link with crcOut := (c >>> 8) ^^^ v })

/-- R110: TX_OPEN sets `txCrc` to SEED and emits the delimiter. -/
def Obligations.TxOpenEmitsDelimiter : Prop :=
  ∀ s : State, exec .txOpen s =
    .next (s.setLink { s.link with txCrc := s.cfg.seed, tx := s.link.tx ++ [.byte s.cfg.delim] })

/-- R111: TX_WRITE folds the unescaped byte and emits it, escaped where it is DELIM or ESC. -/
def Obligations.TxWriteFoldsAndStuffs : Prop :=
  ∀ (s : State) (u : Byte), exec (.txWrite u) s =
    .next (s.setLink { s.link with
      txCrc := crcStep s.cfg.toParams s.link.txCrc u
      tx := s.link.tx ++
        (if u = s.cfg.delim ∨ u = s.cfg.esc then [.byte s.cfg.esc, .byte (u ^^^ s.cfg.mask)] else [.byte u]) })

/-- R112, R113: TX_CLOSE writes the complement's low byte, then its high byte, each stuffed, then the delimiter and the
flush; it leaves `txCrc = GOOD`. -/
def Obligations.TxCloseEmitsFcs : Prop :=
  ∀ s : State, exec .txClose s =
    .next (s.setLink { s.link with
      txCrc := s.cfg.good
      tx := s.link.tx ++ ((stuff s.cfg.toParams [(~~~ s.link.txCrc).setWidth 8, (~~~ s.link.txCrc >>> 8).setWidth 8]
        ++ [s.cfg.delim]).map TxOut.byte ++ [.flush]) })

/-! ### Link Framer: receive path -/

/-- R104: RX_OPEN empties the buffer, seeds the CRC and enters RECEIVING. -/
def Obligations.RxOpenStartsFrame : Prop :=
  ∀ s : State, exec .rxOpen s =
    .next (s.setLink { s.link with rxFill := 0, rxCrc := s.cfg.seed, rxState := .receiving })

/-- R105, R106: RX_ADD notes an escape; else it unescapes the byte where an escape is pending, aborts the frame if the
buffer is full, or stores and folds the byte. -/
def Obligations.RxAddStoresByte : Prop :=
  ∀ (s : State) (b u : Byte), u = (if s.link.rxEsc then b ^^^ s.cfg.mask else b) →
    (b = s.cfg.esc → exec (.rxAdd b) s = .next (s.setLink { s.link with rxEsc := true })) ∧
    (b ≠ s.cfg.esc → s.link.rxFill = s.cfg.rxCap → exec (.rxAdd b) s =
      .next (s.setLink { s.link with rxEsc := false, rxFill := 0, rxState := .idle,
                                     discards := s.link.discards ++ [.overflow] })) ∧
    (b ≠ s.cfg.esc → s.link.rxFill ≠ s.cfg.rxCap → exec (.rxAdd b) s =
      .next (s.setLink { s.link with rxEsc := false, rxBuf := s.link.rxBuf.set s.link.rxFill u,
                                     rxFill := s.link.rxFill + 1,
                                     rxCrc := crcStep s.cfg.toParams s.link.rxCrc u }))

/-- R106: RX_ABORT discards the buffer and returns to IDLE; the overflowing byte is not stored. -/
def Obligations.RxAbortDiscardsFrame : Prop :=
  ∀ (s : State) (d : Byte), exec (.rxAbort d) s =
    .next (s.setLink { s.link with rxFill := 0, rxState := .idle, discards := s.link.discards ++ [.overflow] })

/-- R107: RX_CLOSE discards a frame with a bad CRC or fewer than two bytes, and an empty one; it delivers any other
frame without its two CRC bytes to FRAME_RECEIVED. -/
def Obligations.RxCloseChecksCrc : Prop :=
  ∀ s : State,
    ((s.link.rxFill < 2 ∨ s.link.rxCrc ≠ s.cfg.good) → exec .rxClose s =
      .next (s.setLink { s.link with rxEsc := false, rxFill := 0, rxState := .idle,
                                     discards := s.link.discards ++ [.crc] })) ∧
    (s.link.rxFill = 2 → s.link.rxCrc = s.cfg.good → exec .rxClose s =
      .next (s.setLink { s.link with rxEsc := false, rxFill := 0, rxState := .idle,
                                     discards := s.link.discards ++ [.empty] })) ∧
    (2 < s.link.rxFill → s.link.rxCrc = s.cfg.good → exec .rxClose s =
      exec (.frameReceived (s.link.rxBuf.take (s.link.rxFill - 2)))
        (s.setLink { s.link with rxEsc := false, rxFill := 0, rxState := .idle }))

/-- R107, R143, R146: RX_CLOSE on a good frame that holds a peer-originated frame completes: it closes the frame and
does what PEER_PATH does then, so the peer's sequence bit is recorded and the acknowledgement goes out. -/
def Obligations.RxCloseDeliversPeerFrame : Prop :=
  ∀ (s : State) (cmd len flags : Byte) (A : List Byte),
    s.link.rxCrc = s.cfg.good → s.link.rxFill = A.length + 5 →
    s.link.rxBuf.take (s.link.rxFill - 2) = cmd :: len :: flags :: A →
    A.length = len.toNat → flags.getLsbD 0 = false →
    ∃ t, exec .rxClose s = .next t ∧
      exec (.peerPath cmd flags A) (s.setLink { s.link with rxEsc := false, rxFill := 0, rxState := .idle }) =
        .next t ∧
      t.link.rxState = .idle ∧ t.link.rxEsc = false ∧ t.link.rxFill = 0 ∧
      t.link.rxSeq = flags.extractLsb' 1 1 ∧
      t.link.tx = s.link.tx ++ frameOut s.cfg.toParams (ackPayload cmd (flags.extractLsb' 1 1))

/-- R109: a byte received in IDLE that is a delimiter or does not follow one changes nothing but `rxLastDelim`. -/
def Obligations.RxByteIgnoredInIdle : Prop :=
  ∀ (s : State) (b : Byte), s.link.rxState = .idle → (s.link.rxLastDelim = false ∨ b = s.cfg.delim) →
    exec (.rxByte b) s = .next (s.setLink { s.link with rxLastDelim := decide (b = s.cfg.delim) })

/-- R103 to R105: a byte after a delimiter opens a frame and is its first byte; an escape opens it with nothing
stored. -/
def Obligations.RxByteOpensFrame : Prop :=
  ∀ (s : State) (b : Byte), s.link.rxState = .idle → s.link.rxEsc = false → s.link.rxLastDelim = true →
    b ≠ s.cfg.delim →
    exec (.rxByte b) s = .next (s.setLink
      (if b = s.cfg.esc then
        { s.link with rxState := .receiving, rxFill := 0, rxCrc := s.cfg.seed, rxEsc := true, rxLastDelim := false }
      else
        { s.link with rxState := .receiving, rxBuf := s.link.rxBuf.set 0 b, rxFill := 1,
                      rxCrc := crcStep s.cfg.toParams s.cfg.seed b, rxLastDelim := false }))

/-- R103, R105, R106: a byte other than the delimiter received while RECEIVING: an escape is noted, an escaped byte is
XORed with MASK, a byte that does not fit aborts the frame, and any other is stored and folded. -/
def Obligations.RxByteWhileReceiving : Prop :=
  ∀ (s : State) (b u : Byte), s.link.rxState = .receiving → b ≠ s.cfg.delim →
    u = (if s.link.rxEsc then b ^^^ s.cfg.mask else b) →
    exec (.rxByte b) s = .next (s.setLink
      (if b = s.cfg.esc then { s.link with rxEsc := true, rxLastDelim := false }
      else if s.link.rxFill = s.cfg.rxCap then
        { s.link with rxEsc := false, rxFill := 0, rxState := .idle, rxLastDelim := false,
                      discards := s.link.discards ++ [.overflow] }
      else
        { s.link with rxEsc := false, rxBuf := s.link.rxBuf.set s.link.rxFill u, rxFill := s.link.rxFill + 1,
                      rxCrc := crcStep s.cfg.toParams s.link.rxCrc u, rxLastDelim := false }))

/-- R70, R103: the three wire classes while RECEIVING. The delimiter, as its class and as RX_BYTE, does what RX_CLOSE
does and then notes the delimiter (R108). In a state that meets the invariant of R37 an escape is noted, a data byte that
fits is stored, and the delimiter completes and leaves IDLE. -/
def Obligations.WireBytesWhileReceiving : Prop :=
  ∀ s : State, s.link.rxState = .receiving →
    (exec .wireDelim s = onNext (exec .rxClose s) fun t => t.setLink { t.link with rxLastDelim := true }) ∧
    (exec (.rxByte s.cfg.delim) s = onNext (exec .rxClose s) fun t => t.setLink { t.link with rxLastDelim := true }) ∧
    (s.link.inv s.cfg.toParams →
      exec .wireEsc s = .next (s.setLink { s.link with rxEsc := true, rxLastDelim := false }) ∧
      (∀ d : Byte, d ≠ s.cfg.delim → d ≠ s.cfg.esc → s.link.rxFill < s.cfg.rxCap →
        ∃ t, exec (.wireData d) s = .next t ∧ t.link.rxState = .receiving ∧ t.link.rxFill = s.link.rxFill + 1 ∧
          t.link.rxEsc = false ∧ t.link.rxLastDelim = false ∧
          t.link.rxBuf[s.link.rxFill]? = some (if s.link.rxEsc then d ^^^ s.cfg.mask else d)) ∧
      ∃ t, exec .wireDelim s = .next t ∧ t.link.rxState = .idle ∧ t.link.rxEsc = false ∧ t.link.rxFill = 0 ∧
        t.link.rxLastDelim = true)

/-- R108: every RX_BYTE ends with `rxLastDelim <- (b = DELIM)`. -/
def Obligations.RxByteRecordsDelimiter : Prop :=
  ∀ (s t : State) (b : Byte), exec (.rxByte b) s = .next t → (t.link.rxLastDelim = true ↔ b = s.cfg.delim)

/-- R223, R172, R7: an INVOKE that fails REQ_WF is refused and a well-formed one runs; every RX_BYTE, CANCEL and RESET
runs (in every state that meets the invariant of R37); every configuration meets R7(a) to (f), so one that breaks a
constraint is not built, and a tuple that meets them is built, given a table of 256 entries, RC_OK = 0x00 and N_INST ≥ 1
(R6, R169). -/
def Obligations.OnlyMisuseIsRefused : Prop :=
  (∀ (s : State) (e dst : Nat) (args : List Value),
    (¬ ReqWellFormed s.cfg.toParams s.link e dst args → exec (.invoke e args dst) s = .refused .encodingMisuse) ∧
    (ReqWellFormed s.cfg.toParams s.link e dst args → ∃ t, exec (.invoke e args dst) s = .next t)) ∧
  (∀ (s : State) (i : Instr), s.link.inv s.cfg.toParams → (∃ b, i = .rxByte b) ∨ i = .cancel ∨ i = .reset →
    ∃ t, exec i s = .next t) ∧
  (∀ c : Config, MeetsR7 c.toParams) ∧
  ∀ p : Params, MeetsR7 p → p.table.length = 256 → p.rcOk = 0x00 → 1 ≤ p.nInst → ∃ c : Config, c.toParams = p

/-- R114: the wire bytes of a link payload `P` with `1 ≤ |P| ≤ RX_CAP - 2`, received by a framer that is IDLE or that
is RECEIVING a frame which the opening delimiter closes (leaving `s1`), deliver exactly `P` to FRAME_RECEIVED, once,
with the framer IDLE; for every byte value in every position. -/
def Obligations.FramingRoundTrip : Prop :=
  ∀ (s s1 : State) (P : List Byte), (s.link.rxState = .idle → s.link.rxEsc = false) →
    s.link.rxBuf.length = s.cfg.rxCap → 1 ≤ P.length → P.length ≤ s.cfg.rxCap - 2 →
    exec (.rxByte s.cfg.delim) s = .next s1 →
    s1.link.rxState = .idle ∧
    ∃ buf : List Byte, buf.length = s.cfg.rxCap ∧ buf.take P.length = P ∧
      rxBytes (frameBytes s.cfg.toParams P) s =
        onNext (exec (.frameReceived P)
            (s1.setLink { s1.link with rxBuf := buf, rxFill := 0, rxCrc := s.cfg.good, rxLastDelim := false }))
          fun t => t.setLink { t.link with rxLastDelim := true }

/-! ### Packet Transport -/

/-- HDR_COMMAND_OUT sends the three header bytes of R81, stuffed and folded, with the sequence and SYNC bits that R141
computes from `txFirst` and `txSeq`; where the word's own bits are those, they are the word's bytes. No rule gives the row
an effect by itself. That it runs alone with no frame around it (DESIGN CHOICE, assumptions 8 and 26), ignores the word's
`y` and `s` bits and uses `extraFlags` 0 (DEDUCED, assumption 11) is the model's. No command frame is sent, so `txFirst`
and `txSeq` stay (R28, R142). -/
def Obligations.CommandHeaderGoesOut : Prop :=
  ∀ (s : State) (cmd len : Byte) (y q seq sync : Bit),
    seq = (if s.link.txFirst then 0 else s.link.txSeq) → sync = (if s.link.txFirst then 1 else 0) →
    exec (.hdrCommandOut cmd len y q) s =
      .next (s.setLink { s.link with
        txCrc := crcFold s.cfg.toParams s.link.txCrc (encode s.cfg.toParams (.hdrCommandOut cmd len sync seq)).bytes
        tx := s.link.tx ++
          (stuff s.cfg.toParams (encode s.cfg.toParams (.hdrCommandOut cmd len sync seq)).bytes).map TxOut.byte })

/-- HDR_ACK_OUT sends the three header bytes of an acknowledgement (R80, R148), stuffed and folded, with `rxSeq` as the
sequence bit. No rule gives the row an effect by itself. That it runs alone (DESIGN CHOICE, assumptions 8 and 26) and
ignores the word's `s` bit (DEDUCED, assumption 11) is the model's. -/
def Obligations.AckHeaderGoesOut : Prop :=
  ∀ (s : State) (cmd : Byte) (q : Bit),
    exec (.hdrAckOut cmd q) s =
      .next (s.setLink { s.link with
        txCrc := crcFold s.cfg.toParams s.link.txCrc (ackPayload cmd s.link.rxSeq)
        tx := s.link.tx ++ (stuff s.cfg.toParams (ackPayload cmd s.link.rxSeq)).map TxOut.byte })

/-- R140 to R142: SEND_COMMAND registers the reply, sends one frame of R73 with the header of R81 and R141, clears
`txFirst` and toggles the sequence bit. -/
def Obligations.SendCommandSendsFrame : Prop :=
  ∀ (s : State) (cmd : Byte) (y q : Bit) (extraFlags : Byte) (A : List Byte) (e : Nat),
    e < s.cfg.cat.length → A.length ≤ 255 →
    exec (.sendCommand cmd y q extraFlags A e) s =
      .next (s.setLink { s.link with
        regValid := true, regCmdId := cmd, regEntry := e
        txFirst := false
        txSeq := (if s.link.txFirst then 0 else s.link.txSeq) ^^^ 1
        txCrc := s.cfg.good
        tx := s.link.tx ++ frameOut s.cfg.toParams (commandPayload s.link cmd extraFlags A) })

/-- The operands the rules do not admit stop by name (the model's choice, assumptions 17 and 18): SEND_COMMAND and
REPLY_HANDLE given no index into CAT, SEND_COMMAND given more than 255 payload bytes, and a reply to the pending command
that passes every check while the slot names no reply record, or, if successful, one without a field it writes. -/
def Obligations.OperandsOutOfRangeStop : Prop :=
  ∀ (s : State) (cmd rc : Byte) (y q : Bit) (extraFlags : Byte) (A R : List Byte) (e : Nat),
    (s.cfg.cat.length ≤ e ∨ 255 < A.length →
      exec (.sendCommand cmd y q extraFlags A e) s = .refused .operandRange) ∧
    (s.link.busy = true → s.link.slotCmdId = cmd → s.cfg.cat.length ≤ e →
      exec (.replyHandle e cmd rc R) s = .refused .operandRange) ∧
    ∀ C, s.link.busy = true → s.link.slotCmdId = cmd → s.cfg.cat[e]? = some C →
      (C.param = true → R.head? = some s.link.slotSubId) → (rc = s.cfg.rcOk → C.minReply ≤ R.length) →
      (findReply s.link.replies s.link.slotDst = none ∨
        rc = s.cfg.rcOk ∧ ∃ r, findReply s.link.replies s.link.slotDst = some r ∧ ∃ f ∈ C.rep, fieldShape f ∉ r.shape) →
      exec (.replyHandle e cmd rc R) s = .fault .noReplyRecord

/-- R142, R28, R149: only SEND_COMMAND (with INVOKE around it) and RESET write `txSeq` and `txFirst`; no acknowledgement
and no header sent by itself does. -/
def Obligations.OnlySendCommandWritesTxSeq : Prop :=
  ∀ (s t : State) (i : Instr), exec i s = .next t →
    (∀ e args dst, i ≠ .invoke e args dst) → (∀ cmd y q x A e, i ≠ .sendCommand cmd y q x A e) → i ≠ .reset →
    t.link.txSeq = s.link.txSeq ∧ t.link.txFirst = s.link.txFirst

/-- R143: FRAME_RECEIVED discards a payload shorter than the header and one whose `length` disagrees, with no
acknowledgement; a frame with RESPONSE = 1 goes to REPLY_PATH, any other to PEER_PATH. Each received header row, whatever
its flags byte, does what FRAME_RECEIVED does on its header and payload (DEDUCED, assumption 20: no rule gives these rows
an effect by themselves; DESIGN CHOICE, assumption 29: payloads of any length). -/
def Obligations.FrameReceivedRoutes : Prop :=
  ∀ s : State,
    (∀ P : List Byte, P.length < 3 → exec (.frameReceived P) s =
      .next (s.setLink { s.link with discards := s.link.discards ++ [.short] })) ∧
    ∀ (cmd len flags : Byte) (A : List Byte),
      exec (.hdrReply cmd len flags A) s = exec (.frameReceived (cmd :: len :: flags :: A)) s ∧
      exec (.hdrPeerSync cmd len flags A) s = exec (.frameReceived (cmd :: len :: flags :: A)) s ∧
      exec (.hdrPeerNosync cmd len flags A) s = exec (.frameReceived (cmd :: len :: flags :: A)) s ∧
      (A.length ≠ len.toNat → exec (.frameReceived (cmd :: len :: flags :: A)) s =
        .next (s.setLink { s.link with discards := s.link.discards ++ [.length] })) ∧
      (A.length = len.toNat → flags.getLsbD 0 = true → ∀ x,
        exec (.frameReceived (cmd :: len :: flags :: A)) s = exec (.replyPath cmd x A) s) ∧
      (A.length = len.toNat → flags.getLsbD 0 = false →
        exec (.frameReceived (cmd :: len :: flags :: A)) s = exec (.peerPath cmd flags A) s)

/-- R146 (the duplicate case), R148: a peer frame with SYNC = 0 and sequence bit `rxSeq` is acknowledged and not
forwarded, through PEER_PATH, FRAME_RECEIVED and HDR_PEER_NOSYNC alike. -/
def Obligations.DuplicateIsOnlyAcknowledged : Prop :=
  ∀ (s t : State) (cmd len flags : Byte) (A : List Byte),
    A.length = len.toNat → flags.getLsbD 0 = false → flags.getLsbD 3 = false →
    flags.extractLsb' 1 1 = s.link.rxSeq →
    t = s.setLink { s.link with
      txCrc := s.cfg.good
      discards := s.link.discards ++ [.duplicate]
      tx := s.link.tx ++ frameOut s.cfg.toParams (ackPayload cmd s.link.rxSeq) } →
    exec (.peerPath cmd flags A) s = .next t ∧ exec (.frameReceived (cmd :: len :: flags :: A)) s = .next t ∧
      exec (.hdrPeerNosync cmd len flags A) s = .next t

/-- R146, R147 (the new case): a peer frame with SYNC = 1 or another sequence bit is new: `rxSeq` takes its sequence
bit, a payload of at least one byte goes to NOTIF_DECODE, and the acknowledgement goes out whatever the decoder does.
Through PEER_PATH and, for their classes, HDR_PEER_SYNC and HDR_PEER_NOSYNC. -/
def Obligations.NewPeerFrameIsForwarded : Prop :=
  ∀ (s : State) (cmd len flags : Byte) (A : List Byte),
    A.length = len.toNat → flags.getLsbD 0 = false →
    flags.getLsbD 3 = true ∨ flags.extractLsb' 1 1 ≠ s.link.rxSeq →
    ∃ t u, exec (.peerPath cmd flags A) s = .next t ∧
      exec (.hdrPeerSync cmd len flags A) s = .next t ∧ exec (.hdrPeerNosync cmd len flags A) s = .next t ∧
      (A = [] → u = s.setLink { s.link with rxSeq := flags.extractLsb' 1 1 }) ∧
      (A ≠ [] → exec (.notifDecode cmd A) (s.setLink { s.link with rxSeq := flags.extractLsb' 1 1 }) = .next u) ∧
      t = u.setLink { u.link with
        txCrc := s.cfg.good
        tx := s.link.tx ++ frameOut s.cfg.toParams (ackPayload cmd (flags.extractLsb' 1 1)) }

/-- R146, corner case 5: receiving the same peer frame again (SYNC = 0) changes no register but `txCrc`, which the
acknowledgement rewrites with the same value; it only sends the acknowledgement once more. -/
def Obligations.ReplayOnlyAcknowledgesAgain : Prop :=
  ∀ (s t : State) (cmd flags : Byte) (A : List Byte),
    flags.getLsbD 3 = false → exec (.peerPath cmd flags A) s = .next t →
    exec (.peerPath cmd flags A) t = .next (t.setLink { t.link with
      discards := t.link.discards ++ [.duplicate]
      tx := t.link.tx ++ frameOut s.cfg.toParams (ackPayload cmd (flags.extractLsb' 1 1)) })

/-- R148, R149: SEND_ACK sends one acknowledgement frame and writes nothing but `txCrc`. -/
def Obligations.SendAckTouchesNoSendState : Prop :=
  ∀ (s : State) (cmd : Byte) (q : Bit), exec (.sendAck cmd q) s =
    .next (s.setLink { s.link with
      txCrc := s.cfg.good
      tx := s.link.tx ++ frameOut s.cfg.toParams (ackPayload cmd s.link.rxSeq) })

/-- R144: a reply with no result code, and a reply that no registration expects, change nothing and send nothing. -/
def Obligations.UnexpectedReplyIsDropped : Prop :=
  ∀ (s : State) (cmd : Byte) (x : BitVec 7),
    exec (.replyPath cmd x []) s = .next (s.setLink { s.link with discards := s.link.discards ++ [.noRc] }) ∧
    ∀ (rc : Byte) (R : List Byte), s.link.regValid = false ∨ s.link.regCmdId ≠ cmd →
      exec (.replyPath cmd x (rc :: R)) s =
        .next (s.setLink { s.link with discards := s.link.discards ++ [.unexpectedReply] })

/-- R145: a reply frame that matches the registration clears it, whatever REPLY_HANDLE then decides, and nothing else a
reply frame does clears it. -/
def Obligations.MatchedReplyClearsRegistration : Prop :=
  ∀ (s t : State) (cmd : Byte) (x : BitVec 7) (A : List Byte), exec (.replyPath cmd x A) s = .next t →
    s.link.regValid = true → (t.link.regValid = false ↔ A ≠ [] ∧ s.link.regCmdId = cmd)

/-! ### Command Engine -/

/-- R170, R172, R79, R140, R83(c): a well-formed INVOKE while no command is outstanding sends one frame with the request's
payload `A` (the sub-identifier of a parameterized command, each INT as its big-endian bytes, each RAW and RAWVAR as it
is), which is at most 255 bytes, records the pending slot and returns Ok. -/
def Obligations.InvokeSendsRequest : Prop :=
  ∀ (s : State) (e dst : Nat) (args : List Value) (C : CmdEntry) (A : List Byte) (r : Record),
    s.cfg.cat[e]? = some C → requestPayload C args = some A → findReply s.link.replies dst = some r →
    r.HasShape C.rep → s.link.busy = false →
    A.length ≤ 255 ∧ exec (.invoke e args dst) s =
      .next (s.setLink { s.link with
        busy := true, slotCmdId := C.cmdId, slotEntry := e, slotSubId := C.subId, slotDst := dst
        regValid := true, regCmdId := C.cmdId, regEntry := e
        txFirst := false
        txSeq := (if s.link.txFirst then 0 else s.link.txSeq) ^^^ 1
        txCrc := s.cfg.good
        tx := s.link.tx ++ frameOut s.cfg.toParams (commandPayload s.link C.cmdId 0 A)
        statuses := s.link.statuses ++ [.ok] })

/-- R171: while a command is outstanding, a well-formed INVOKE returns Busy and changes nothing else. -/
def Obligations.InvokeWhileBusy : Prop :=
  ∀ (s : State) (e dst : Nat) (args : List Value),
    ReqWellFormed s.cfg.toParams s.link e dst args → s.link.busy = true →
    exec (.invoke e args dst) s = .next (s.setLink { s.link with statuses := s.link.statuses ++ [.busy] })

/-- R11, R54, R82: `BE_w(v)` has `w` bytes and its byte `k` is `(v >> 8(w-1-k))[7:0]`; `BE(s)` is the sum of
`s[k] * 256^(|s|-1-k)`; so a value below `256^w` is read back as itself; and a decoded field is that sum, or the bytes,
of `s[o..o+w)`. -/
def Obligations.BigEndianRoundTrip : Prop :=
  (∀ w v : Nat, (beBytes w v).length = w ∧
    ∀ k, k < w → (beBytes w v)[k]? = some (BitVec.ofNat 8 (v >>> (8 * (w - 1 - k))))) ∧
  (∀ s : List Byte,
    beValue s = ((List.range s.length).map fun k => (s.getD k 0).toNat * 256 ^ (s.length - 1 - k)).sum) ∧
  (∀ w v : Nat, v < 256 ^ w → beValue (beBytes w v) = v) ∧
  ∀ (f : Field) (s : List Byte), f.o + f.w ≤ s.length → decodeField f s = fieldContent f s

/-- R173: CANCEL clears `busy` and nothing else; the registration stays. -/
def Obligations.CancelClearsBusyOnly : Prop :=
  ∀ s : State, exec .cancel s = .next (s.setLink { s.link with busy := false })

/-- R250: RESET gives the registers their reset values, leaves the configuration, the other link instances, the reply
records and the outputs as they are, and draws `rxSeq` freely (R30): each RESET takes the next draw. That the draws are
numbered by the model's counter `draws`, and are opaque constants, is the form of the free value (DESIGN CHOICE,
assumptions 4 and 6). -/
def Obligations.ResetTransaction : Prop :=
  ∀ s : State, ∃ t, exec .reset s = .next t ∧
    t.link.rxState = .idle ∧ t.link.rxEsc = false ∧ t.link.rxFill = 0 ∧ t.link.rxLastDelim = false ∧
    t.link.txFirst = true ∧ t.link.txSeq = 0 ∧ t.link.rxSeq = Config.rxSeqDraw s.draws ∧ t.draws = s.draws + 1 ∧
    t.link.regValid = false ∧ t.link.busy = false ∧ t.link.notifRec = none ∧
    t.link.rxBuf.length = s.cfg.rxCap ∧ t.link.replies = s.link.replies ∧
    t.link.tx = s.link.tx ∧ t.link.ev = s.link.ev ∧ t.link.statuses = s.link.statuses ∧
    t.cfg = s.cfg ∧ t.before = s.before ∧ t.after = s.after ∧ t.script = s.script

/-- R174 to R178: a reply to the pending command that passes every check writes the record of the slot as R177 says (the
result code, and on success each field's content: for INT the big-endian sum over its bytes, for RAW the bytes), emits
ReplyReady and clears `busy`; no other record changes. -/
def Obligations.ReplyHandleCompletes : Prop :=
  ∀ (s : State) (e : Nat) (cmd rc : Byte) (R : List Byte) (C : CmdEntry) (r : Record),
    ReplyAccepted s.cfg.toParams s.link e cmd rc R C r →
    ∃ rs r', exec (.replyHandle e cmd rc R) s =
        .next (s.setLink { s.link with replies := rs, ev := s.link.ev ++ [.replyReady cmd], busy := false }) ∧
      findReply rs s.link.slotDst = some r' ∧ RecordWritten s.cfg.toParams C rc R r r' ∧
      ∀ d, d ≠ s.link.slotDst → findReply rs d = findReply s.link.replies d

/-- R144, R145, R150: a reply frame to the pending command completes it through REPLY_PATH, FRAME_RECEIVED and HDR_REPLY
alike, whatever its flag bits 7:1: the registration is cleared and REPLY_HANDLE does the rest. -/
def Obligations.ReplyFramesComplete : Prop :=
  ∀ (s : State) (cmd len rc flags : Byte) (x : BitVec 7) (R : List Byte) (C : CmdEntry) (r : Record),
    s.link.regValid = true → s.link.regCmdId = cmd →
    ReplyAccepted s.cfg.toParams s.link s.link.regEntry cmd rc R C r →
    R.length + 1 = len.toNat → flags.getLsbD 0 = true →
    ∃ t, exec (.replyHandle s.link.regEntry cmd rc R) (s.setLink { s.link with regValid := false }) = .next t ∧
      exec (.replyPath cmd x (rc :: R)) s = .next t ∧
      exec (.frameReceived (cmd :: len :: flags :: rc :: R)) s = .next t ∧
      exec (.hdrReply cmd len flags (rc :: R)) s = .next t ∧
      t.link.busy = false ∧ t.link.regValid = false ∧ t.link.ev = s.link.ev ++ [.replyReady cmd]

/-- R174: a reply while no command is outstanding, or to another command, is ignored. -/
def Obligations.ReplyNotPendingIsIgnored : Prop :=
  ∀ (s : State) (e : Nat) (cmd rc : Byte) (R : List Byte), s.link.busy = false ∨ s.link.slotCmdId ≠ cmd →
    exec (.replyHandle e cmd rc R) s =
      .next (s.setLink { s.link with discards := s.link.discards ++ [.notPending] })

/-- R175, R257: a reply to a parameterized command whose first byte after the result code is missing or is not the
recorded sub-identifier is ignored, whatever the result code; it consumes the registration and leaves the stall
state. -/
def Obligations.SubIdMismatchStalls : Prop :=
  ∀ (s t : State) (cmd rc : Byte) (x : BitVec 7) (R : List Byte) (C : CmdEntry),
    s.link.regValid = true → s.link.regCmdId = cmd → s.link.busy = true → s.link.slotCmdId = cmd →
    s.cfg.cat[s.link.regEntry]? = some C → C.param = true → (∀ R', R ≠ s.link.slotSubId :: R') →
    t = s.setLink { s.link with regValid := false, discards := s.link.discards ++ [.subId] } →
    exec (.replyPath cmd x (rc :: R)) s = .next t ∧ t.link.stalled

/-- R176, R256: a successful reply shorter than `minReply` is ignored with no partial decode; it consumes the
registration and leaves the stall state. -/
def Obligations.ShortReplyStalls : Prop :=
  ∀ (s t : State) (cmd : Byte) (x : BitVec 7) (R : List Byte) (C : CmdEntry),
    s.link.regValid = true → s.link.regCmdId = cmd → s.link.busy = true → s.link.slotCmdId = cmd →
    s.cfg.cat[s.link.regEntry]? = some C → (C.param = true → R.head? = some s.link.slotSubId) →
    R.length < C.minReply →
    t = s.setLink { s.link with regValid := false, discards := s.link.discards ++ [.shortReply] } →
    exec (.replyPath cmd x (s.cfg.rcOk :: R)) s = .next t ∧ t.link.stalled

/-- R38: from the stall state no received frame and no INVOKE clears `busy`, completes the command or writes a reply
record; only CANCEL or RESET leaves it. -/
def Obligations.StallLastsUntilCancelOrReset : Prop :=
  ∀ (is : List Instr) (s t : State), s.link.stalled → (∀ i ∈ is, isTraffic i = true) → execAll is s = .next t →
    t.link.stalled ∧ t.link.replies = s.link.replies ∧
    ∀ cmd, (t.link.ev.count (.replyReady cmd)) = s.link.ev.count (.replyReady cmd)

/-- R178: besides CANCEL and RESET, only a completed reply clears `busy`, and it emits ReplyReady for the pending
command. -/
def Obligations.OnlyCompletionClearsBusy : Prop :=
  ∀ (s t : State) (i : Instr), exec i s = .next t → s.link.busy = true → t.link.busy = false →
    i = .cancel ∨ i = .reset ∨ t.link.ev = s.link.ev ++ [.replyReady s.link.slotCmdId]

/-- R180 to R182, R82: a notification that passes both checks replaces the whole record by the decoded one (an INT field
the big-endian sum over its bytes, a RAW field the bytes) and emits NotifReady; nothing else changes. The field names of
the entry are distinct. -/
def Obligations.NotifDecodeDelivers : Prop :=
  ∀ (s : State) (cmd : Byte) (A : List Byte) (N : NotifEntry),
    N ∈ s.cfg.ncat → N.cmdId = cmd → (N.fields.map Field.name).Nodup →
    N.minLen ≤ A.length → N.size A.length ≤ s.cfg.notifCap →
    exec (.notifDecode cmd A) s =
      .next (s.setLink { s.link with
        notifRec := some {
          fields := N.fields.map fun f => (f.name, fieldContent f A)
          tail := N.tail.map fun o => { tailLen := A.length - o, bytes := A.drop o } }
        ev := s.link.ev ++ [.notifReady cmd s.cfg.noSubcmd] })

/-- R180, R181: an unknown id, a payload under the entry's minimum and a record over NOTIF_CAP, in that order, drop the
notification: no event, and `notifRec` keeps its record. -/
def Obligations.NotifDecodeDrops : Prop :=
  ∀ (s : State) (cmd : Byte) (A : List Byte),
    ((∀ N ∈ s.cfg.ncat, N.cmdId ≠ cmd) → exec (.notifDecode cmd A) s =
      .next (s.setLink { s.link with discards := s.link.discards ++ [.unknownNotif] })) ∧
    ∀ N ∈ s.cfg.ncat, N.cmdId = cmd →
      (A.length < N.minLen → exec (.notifDecode cmd A) s =
        .next (s.setLink { s.link with discards := s.link.discards ++ [.shortNotif] })) ∧
      (N.minLen ≤ A.length → s.cfg.notifCap < N.size A.length → exec (.notifDecode cmd A) s =
        .next (s.setLink { s.link with discards := s.link.discards ++ [.notifBuf] }))

/-! ### Hazards and whole-machine rules -/

/-- R255(a): after CANCEL, a late reply to the cancelled command is forwarded and dropped, and clears the
registration. -/
def Obligations.LateReplyAfterCancel : Prop :=
  ∀ (s : State) (cmd rc : Byte) (x : BitVec 7) (R : List Byte),
    s.link.regValid = true → s.link.regCmdId = cmd →
    execAll [.cancel, .replyPath cmd x (rc :: R)] s =
      .next (s.setLink { s.link with
        busy := false, regValid := false, discards := s.link.discards ++ [.notPending] })

/-- R255(c): after CANCEL and a new INVOKE of an entry with the same `commandId`, a late reply completes the new
command: it writes the new command's record and no other. -/
def Obligations.LateReplyCompletesNewCommand : Prop :=
  ∀ (s : State) (e dst : Nat) (args : List Value) (rc : Byte) (x : BitVec 7) (R : List Byte) (C : CmdEntry),
    ReqWellFormed s.cfg.toParams s.link e dst args → s.cfg.cat[e]? = some C →
    (C.param = true → R.head? = some C.subId) → (rc = s.cfg.rcOk → C.minReply ≤ R.length) →
    ∃ t r', execAll [.cancel, .invoke e args dst, .replyPath C.cmdId x (rc :: R)] s = .next t ∧
      t.link.busy = false ∧ t.link.regValid = false ∧ t.link.ev = s.link.ev ++ [.replyReady C.cmdId] ∧
      findReply t.link.replies dst = some r' ∧ r'.rc = some rc ∧
      ∀ d, d ≠ dst → findReply t.link.replies d = findReply s.link.replies d

/-- R224: one received byte emits at most one event. -/
def Obligations.AtMostOneEventPerByte : Prop :=
  ∀ (s t : State) (b : Byte), exec (.rxByte b) s = .next t →
    t.link.ev = s.link.ev ∨ ∃ e, t.link.ev = s.link.ev ++ [e]

/-- R13, R251: no operation takes an output back: what was emitted on TX and EV stays, in order. -/
def Obligations.OutputsOnlyGrow : Prop :=
  ∀ (s t : State) (i : Instr), exec i s = .next t →
    s.link.tx <+: t.link.tx ∧ s.link.ev <+: t.link.ev ∧ s.link.statuses <+: t.link.statuses

/-- R59: an INVOKE returns exactly one status and emits no event; CANCEL and RESET emit nothing. -/
def Obligations.HostTransactionOutputs : Prop :=
  (∀ (s t : State) (e dst : Nat) (args : List Value), exec (.invoke e args dst) s = .next t →
    t.link.ev = s.link.ev ∧
    ((t.link.statuses = s.link.statuses ++ [.busy] ∧ s.link.busy = true ∧ t.link.tx = s.link.tx) ∨
     (t.link.statuses = s.link.statuses ++ [.ok] ∧ s.link.busy = false ∧
      ∃ P, t.link.tx = s.link.tx ++ frameOut s.cfg.toParams P))) ∧
  ∀ (s t : State) (i : Instr), i = .cancel ∨ i = .reset → exec i s = .next t →
    t.link.tx = s.link.tx ∧ t.link.ev = s.link.ev ∧ t.link.statuses = s.link.statuses

/-! ### The host's accesses to the records -/

/-- R52, I9: while a command is pending, a host read or write of its reply record is refused. Any other access to a
record acts: a read of the result code or of a field with content returns it and one with no content faults; a write of a
typed record stores it and leaves every other record. (That an access is a script item that reads one part or writes a
whole record is assumption 16; the stops on a record or field that does not exist and on an untyped record are
assumptions 18 and 17: the model's choices.) -/
def Obligations.BorrowedRecordIsRefused : Prop :=
  ∀ (s : State) (rest : List Item) (k : Nat) (l : Link) (a : HostAccess),
    s.script = ⟨k, .host a⟩ :: rest → s.links[k]? = some l →
    (l.busy = true → (∃ sel, a = .readReply l.slotDst sel) ∨ (∃ r, a = .writeReply l.slotDst r) →
      step s = .refused .borrowed) ∧
    ∀ dst, l.busy = false ∨ l.slotDst ≠ dst →
      (∀ sel, a = .readReply dst sel →
        (findReply l.replies dst = none → step s = .fault .noReplyRecord) ∧
        ∀ r, findReply l.replies dst = some r →
          (sel = .rc → r.rc = none → step s = .fault .replyUnwritten) ∧
          (∀ v, sel = .rc → r.rc = some v →
            ∃ t, step s = .next t ∧ t.links[k]? = some { l with reads := l.reads ++ [.replyRc dst v] }) ∧
          (∀ n, sel = .field n → (∀ g ∈ r.fields, g.name ≠ n) → step s = .fault .noReplyRecord) ∧
          ∀ g ∈ r.fields, (r.fields.map ReplyField.name).Nodup → sel = .field g.name →
            (g.val = none → step s = .fault .replyUnwritten) ∧
            ∀ v, g.val = some v → ∃ t, step s = .next t ∧
              t.links[k]? = some { l with reads := l.reads ++ [.replyField dst g.name v] }) ∧
      ∀ r, a = .writeReply dst r →
        (¬ r.Typed → step s = .refused .operandRange) ∧
        (r.Typed → ∃ t rs, step s = .next t ∧ t.links[k]? = some { l with replies := rs } ∧
          findReply rs dst = some r ∧ ∀ d, d ≠ dst → findReply rs d = findReply l.replies d)

/-- R53: a host read of `notifRec` faults while it has no value and reads the latest record once it has one. -/
def Obligations.NotifReadNeedsRecord : Prop :=
  ∀ (s : State) (rest : List Item) (k : Nat) (l : Link),
    s.script = ⟨k, .host .readNotif⟩ :: rest → s.links[k]? = some l →
    (l.notifRec = none → step s = .fault .notifUnread) ∧
    ∀ r, l.notifRec = some r → ∃ t, step s = .next t ∧ t.links[k]? = some { l with reads := l.reads ++ [.notif r] }
end

