-- ==== Sys2Proof/Laws/Config.lean ====
section
/-! SUPPORT. What every configuration meets (R7, R83, R84), read off its check once. -/

namespace Sys2Proof

/-- R7(a) to (c). -/
theorem Config.link_facts (c : Config) : c.delim ≠ c.esc ∧ c.mask ≠ 0 ∧ c.delim ^^^ c.mask ≠ c.delim ∧
    c.delim ^^^ c.mask ≠ c.esc ∧ c.esc ^^^ c.mask ≠ c.delim ∧ c.esc ^^^ c.mask ≠ c.esc := by
  have h := c.wf
  simp only [Params.ok, Params.linkOk, Bool.and_eq_true, decide_eq_true_eq] at h
  tauto

/-- The table's size, R7(d), R7(e), R169 and `N_INST ≥ 1`. -/
theorem Config.size_facts (c : Config) : c.table.length = 256 ∧ c.good = c.residue ∧ 6 ≤ c.rxCap ∧ c.rxCap ≤ 260 ∧
    c.rcOk = 0 ∧ 1 ≤ c.nInst := by
  have h := c.wf
  simp only [Params.ok, Bool.and_eq_true, decide_eq_true_eq] at h
  tauto

/-- R7(f): every catalog entry is well formed, and notification ids are unique. -/
theorem Config.catalog_facts (c : Config) :
    (∀ C ∈ c.cat, C.ok = true) ∧ (∀ N ∈ c.ncat, N.ok = true) ∧ (c.ncat.map NotifEntry.cmdId).Nodup := by
  have h := c.wf
  simp only [Params.ok, Params.catalogsOk, Bool.and_eq_true, decide_eq_true_eq, List.all_eq_true] at h
  tauto

/-- R83: what a well-formed command entry meets. -/
theorem CmdEntry.ok_iff {C : CmdEntry} : C.ok = true ↔
    reqFieldsOk C.req = true ∧ (∀ f ∈ C.rep, f.o + f.w ≤ C.minReply) ∧ (C.param = true → 1 ≤ C.minReply) ∧
    (if C.param then 1 else 0) + (C.req.map ReqField.maxBytes).sum ≤ 255 ∧ (C.rep.map Field.name).Nodup ∧
    C.minReply ≤ 254 := by
  simp only [CmdEntry.ok, Bool.and_eq_true, decide_eq_true_eq, List.all_eq_true, Bool.or_eq_true, Bool.not_eq_true']
  have : (C.param = false ∨ 1 ≤ C.minReply) ↔ (C.param = true → 1 ≤ C.minReply) := by
    cases C.param <;> simp
  tauto

end Sys2Proof
end

