-- ==== Sys2Proof/Laws/State.lean ====
section
/-! SUPPORT. One lemma per field per update of the state, true by `rfl`. -/

namespace Sys2Proof.Machine

@[simp] theorem State.setLink_cfg (s : State) (l : Link) : (s.setLink l).cfg = s.cfg := rfl
@[simp] theorem State.setLink_before (s : State) (l : Link) : (s.setLink l).before = s.before := rfl
@[simp] theorem State.setLink_link (s : State) (l : Link) : (s.setLink l).link = l := rfl
@[simp] theorem State.setLink_after (s : State) (l : Link) : (s.setLink l).after = s.after := rfl
@[simp] theorem State.setLink_draws (s : State) (l : Link) : (s.setLink l).draws = s.draws := rfl
@[simp] theorem State.setLink_script (s : State) (l : Link) : (s.setLink l).script = s.script := rfl
@[simp] theorem State.setLink_setLink (s : State) (l m : Link) : (s.setLink l).setLink m = s.setLink m := rfl
@[simp] theorem State.setLink_link_self (s : State) : s.setLink s.link = s := rfl

@[simp] theorem Link.emit_rxState (l : Link) (bs : List Byte) : (l.emit bs).rxState = l.rxState := rfl
@[simp] theorem Link.emit_rxEsc (l : Link) (bs : List Byte) : (l.emit bs).rxEsc = l.rxEsc := rfl
@[simp] theorem Link.emit_rxCrc (l : Link) (bs : List Byte) : (l.emit bs).rxCrc = l.rxCrc := rfl
@[simp] theorem Link.emit_rxBuf (l : Link) (bs : List Byte) : (l.emit bs).rxBuf = l.rxBuf := rfl
@[simp] theorem Link.emit_rxFill (l : Link) (bs : List Byte) : (l.emit bs).rxFill = l.rxFill := rfl
@[simp] theorem Link.emit_rxLastDelim (l : Link) (bs : List Byte) : (l.emit bs).rxLastDelim = l.rxLastDelim := rfl
@[simp] theorem Link.emit_txCrc (l : Link) (bs : List Byte) : (l.emit bs).txCrc = l.txCrc := rfl
@[simp] theorem Link.emit_txFirst (l : Link) (bs : List Byte) : (l.emit bs).txFirst = l.txFirst := rfl
@[simp] theorem Link.emit_txSeq (l : Link) (bs : List Byte) : (l.emit bs).txSeq = l.txSeq := rfl
@[simp] theorem Link.emit_rxSeq (l : Link) (bs : List Byte) : (l.emit bs).rxSeq = l.rxSeq := rfl
@[simp] theorem Link.emit_regValid (l : Link) (bs : List Byte) : (l.emit bs).regValid = l.regValid := rfl
@[simp] theorem Link.emit_regCmdId (l : Link) (bs : List Byte) : (l.emit bs).regCmdId = l.regCmdId := rfl
@[simp] theorem Link.emit_regEntry (l : Link) (bs : List Byte) : (l.emit bs).regEntry = l.regEntry := rfl
@[simp] theorem Link.emit_busy (l : Link) (bs : List Byte) : (l.emit bs).busy = l.busy := rfl
@[simp] theorem Link.emit_slotCmdId (l : Link) (bs : List Byte) : (l.emit bs).slotCmdId = l.slotCmdId := rfl
@[simp] theorem Link.emit_slotEntry (l : Link) (bs : List Byte) : (l.emit bs).slotEntry = l.slotEntry := rfl
@[simp] theorem Link.emit_slotSubId (l : Link) (bs : List Byte) : (l.emit bs).slotSubId = l.slotSubId := rfl
@[simp] theorem Link.emit_slotDst (l : Link) (bs : List Byte) : (l.emit bs).slotDst = l.slotDst := rfl
@[simp] theorem Link.emit_notifRec (l : Link) (bs : List Byte) : (l.emit bs).notifRec = l.notifRec := rfl
@[simp] theorem Link.emit_replies (l : Link) (bs : List Byte) : (l.emit bs).replies = l.replies := rfl
@[simp] theorem Link.emit_tx (l : Link) (bs : List Byte) : (l.emit bs).tx = l.tx ++ bs.map TxOut.byte := rfl
@[simp] theorem Link.emit_ev (l : Link) (bs : List Byte) : (l.emit bs).ev = l.ev := rfl
@[simp] theorem Link.emit_statuses (l : Link) (bs : List Byte) : (l.emit bs).statuses = l.statuses := rfl
@[simp] theorem Link.emit_discards (l : Link) (bs : List Byte) : (l.emit bs).discards = l.discards := rfl
@[simp] theorem Link.emit_reads (l : Link) (bs : List Byte) : (l.emit bs).reads = l.reads := rfl
@[simp] theorem Link.emit_crcOut (l : Link) (bs : List Byte) : (l.emit bs).crcOut = l.crcOut := rfl

@[simp] theorem Link.flush_rxState (l : Link) : l.flush.rxState = l.rxState := rfl
@[simp] theorem Link.flush_rxEsc (l : Link) : l.flush.rxEsc = l.rxEsc := rfl
@[simp] theorem Link.flush_rxCrc (l : Link) : l.flush.rxCrc = l.rxCrc := rfl
@[simp] theorem Link.flush_rxBuf (l : Link) : l.flush.rxBuf = l.rxBuf := rfl
@[simp] theorem Link.flush_rxFill (l : Link) : l.flush.rxFill = l.rxFill := rfl
@[simp] theorem Link.flush_rxLastDelim (l : Link) : l.flush.rxLastDelim = l.rxLastDelim := rfl
@[simp] theorem Link.flush_txCrc (l : Link) : l.flush.txCrc = l.txCrc := rfl
@[simp] theorem Link.flush_txFirst (l : Link) : l.flush.txFirst = l.txFirst := rfl
@[simp] theorem Link.flush_txSeq (l : Link) : l.flush.txSeq = l.txSeq := rfl
@[simp] theorem Link.flush_rxSeq (l : Link) : l.flush.rxSeq = l.rxSeq := rfl
@[simp] theorem Link.flush_regValid (l : Link) : l.flush.regValid = l.regValid := rfl
@[simp] theorem Link.flush_regCmdId (l : Link) : l.flush.regCmdId = l.regCmdId := rfl
@[simp] theorem Link.flush_regEntry (l : Link) : l.flush.regEntry = l.regEntry := rfl
@[simp] theorem Link.flush_busy (l : Link) : l.flush.busy = l.busy := rfl
@[simp] theorem Link.flush_slotCmdId (l : Link) : l.flush.slotCmdId = l.slotCmdId := rfl
@[simp] theorem Link.flush_slotEntry (l : Link) : l.flush.slotEntry = l.slotEntry := rfl
@[simp] theorem Link.flush_slotSubId (l : Link) : l.flush.slotSubId = l.slotSubId := rfl
@[simp] theorem Link.flush_slotDst (l : Link) : l.flush.slotDst = l.slotDst := rfl
@[simp] theorem Link.flush_notifRec (l : Link) : l.flush.notifRec = l.notifRec := rfl
@[simp] theorem Link.flush_replies (l : Link) : l.flush.replies = l.replies := rfl
@[simp] theorem Link.flush_tx (l : Link) : l.flush.tx = l.tx ++ [.flush] := rfl
@[simp] theorem Link.flush_ev (l : Link) : l.flush.ev = l.ev := rfl
@[simp] theorem Link.flush_statuses (l : Link) : l.flush.statuses = l.statuses := rfl
@[simp] theorem Link.flush_discards (l : Link) : l.flush.discards = l.discards := rfl
@[simp] theorem Link.flush_reads (l : Link) : l.flush.reads = l.reads := rfl
@[simp] theorem Link.flush_crcOut (l : Link) : l.flush.crcOut = l.crcOut := rfl

@[simp] theorem Link.event_rxState (l : Link) (e : Event) : (l.event e).rxState = l.rxState := rfl
@[simp] theorem Link.event_rxEsc (l : Link) (e : Event) : (l.event e).rxEsc = l.rxEsc := rfl
@[simp] theorem Link.event_rxCrc (l : Link) (e : Event) : (l.event e).rxCrc = l.rxCrc := rfl
@[simp] theorem Link.event_rxBuf (l : Link) (e : Event) : (l.event e).rxBuf = l.rxBuf := rfl
@[simp] theorem Link.event_rxFill (l : Link) (e : Event) : (l.event e).rxFill = l.rxFill := rfl
@[simp] theorem Link.event_rxLastDelim (l : Link) (e : Event) : (l.event e).rxLastDelim = l.rxLastDelim := rfl
@[simp] theorem Link.event_txCrc (l : Link) (e : Event) : (l.event e).txCrc = l.txCrc := rfl
@[simp] theorem Link.event_txFirst (l : Link) (e : Event) : (l.event e).txFirst = l.txFirst := rfl
@[simp] theorem Link.event_txSeq (l : Link) (e : Event) : (l.event e).txSeq = l.txSeq := rfl
@[simp] theorem Link.event_rxSeq (l : Link) (e : Event) : (l.event e).rxSeq = l.rxSeq := rfl
@[simp] theorem Link.event_regValid (l : Link) (e : Event) : (l.event e).regValid = l.regValid := rfl
@[simp] theorem Link.event_regCmdId (l : Link) (e : Event) : (l.event e).regCmdId = l.regCmdId := rfl
@[simp] theorem Link.event_regEntry (l : Link) (e : Event) : (l.event e).regEntry = l.regEntry := rfl
@[simp] theorem Link.event_busy (l : Link) (e : Event) : (l.event e).busy = l.busy := rfl
@[simp] theorem Link.event_slotCmdId (l : Link) (e : Event) : (l.event e).slotCmdId = l.slotCmdId := rfl
@[simp] theorem Link.event_slotEntry (l : Link) (e : Event) : (l.event e).slotEntry = l.slotEntry := rfl
@[simp] theorem Link.event_slotSubId (l : Link) (e : Event) : (l.event e).slotSubId = l.slotSubId := rfl
@[simp] theorem Link.event_slotDst (l : Link) (e : Event) : (l.event e).slotDst = l.slotDst := rfl
@[simp] theorem Link.event_notifRec (l : Link) (e : Event) : (l.event e).notifRec = l.notifRec := rfl
@[simp] theorem Link.event_replies (l : Link) (e : Event) : (l.event e).replies = l.replies := rfl
@[simp] theorem Link.event_tx (l : Link) (e : Event) : (l.event e).tx = l.tx := rfl
@[simp] theorem Link.event_ev (l : Link) (e : Event) : (l.event e).ev = l.ev ++ [e] := rfl
@[simp] theorem Link.event_statuses (l : Link) (e : Event) : (l.event e).statuses = l.statuses := rfl
@[simp] theorem Link.event_discards (l : Link) (e : Event) : (l.event e).discards = l.discards := rfl
@[simp] theorem Link.event_reads (l : Link) (e : Event) : (l.event e).reads = l.reads := rfl
@[simp] theorem Link.event_crcOut (l : Link) (e : Event) : (l.event e).crcOut = l.crcOut := rfl

@[simp] theorem Link.answer_rxState (l : Link) (st : Status) : (l.answer st).rxState = l.rxState := rfl
@[simp] theorem Link.answer_rxEsc (l : Link) (st : Status) : (l.answer st).rxEsc = l.rxEsc := rfl
@[simp] theorem Link.answer_rxCrc (l : Link) (st : Status) : (l.answer st).rxCrc = l.rxCrc := rfl
@[simp] theorem Link.answer_rxBuf (l : Link) (st : Status) : (l.answer st).rxBuf = l.rxBuf := rfl
@[simp] theorem Link.answer_rxFill (l : Link) (st : Status) : (l.answer st).rxFill = l.rxFill := rfl
@[simp] theorem Link.answer_rxLastDelim (l : Link) (st : Status) : (l.answer st).rxLastDelim = l.rxLastDelim := rfl
@[simp] theorem Link.answer_txCrc (l : Link) (st : Status) : (l.answer st).txCrc = l.txCrc := rfl
@[simp] theorem Link.answer_txFirst (l : Link) (st : Status) : (l.answer st).txFirst = l.txFirst := rfl
@[simp] theorem Link.answer_txSeq (l : Link) (st : Status) : (l.answer st).txSeq = l.txSeq := rfl
@[simp] theorem Link.answer_rxSeq (l : Link) (st : Status) : (l.answer st).rxSeq = l.rxSeq := rfl
@[simp] theorem Link.answer_regValid (l : Link) (st : Status) : (l.answer st).regValid = l.regValid := rfl
@[simp] theorem Link.answer_regCmdId (l : Link) (st : Status) : (l.answer st).regCmdId = l.regCmdId := rfl
@[simp] theorem Link.answer_regEntry (l : Link) (st : Status) : (l.answer st).regEntry = l.regEntry := rfl
@[simp] theorem Link.answer_busy (l : Link) (st : Status) : (l.answer st).busy = l.busy := rfl
@[simp] theorem Link.answer_slotCmdId (l : Link) (st : Status) : (l.answer st).slotCmdId = l.slotCmdId := rfl
@[simp] theorem Link.answer_slotEntry (l : Link) (st : Status) : (l.answer st).slotEntry = l.slotEntry := rfl
@[simp] theorem Link.answer_slotSubId (l : Link) (st : Status) : (l.answer st).slotSubId = l.slotSubId := rfl
@[simp] theorem Link.answer_slotDst (l : Link) (st : Status) : (l.answer st).slotDst = l.slotDst := rfl
@[simp] theorem Link.answer_notifRec (l : Link) (st : Status) : (l.answer st).notifRec = l.notifRec := rfl
@[simp] theorem Link.answer_replies (l : Link) (st : Status) : (l.answer st).replies = l.replies := rfl
@[simp] theorem Link.answer_tx (l : Link) (st : Status) : (l.answer st).tx = l.tx := rfl
@[simp] theorem Link.answer_ev (l : Link) (st : Status) : (l.answer st).ev = l.ev := rfl
@[simp] theorem Link.answer_statuses (l : Link) (st : Status) : (l.answer st).statuses = l.statuses ++ [st] := rfl
@[simp] theorem Link.answer_discards (l : Link) (st : Status) : (l.answer st).discards = l.discards := rfl
@[simp] theorem Link.answer_reads (l : Link) (st : Status) : (l.answer st).reads = l.reads := rfl
@[simp] theorem Link.answer_crcOut (l : Link) (st : Status) : (l.answer st).crcOut = l.crcOut := rfl

@[simp] theorem Link.discard_rxState (l : Link) (c : Discard) : (l.discard c).rxState = l.rxState := rfl
@[simp] theorem Link.discard_rxEsc (l : Link) (c : Discard) : (l.discard c).rxEsc = l.rxEsc := rfl
@[simp] theorem Link.discard_rxCrc (l : Link) (c : Discard) : (l.discard c).rxCrc = l.rxCrc := rfl
@[simp] theorem Link.discard_rxBuf (l : Link) (c : Discard) : (l.discard c).rxBuf = l.rxBuf := rfl
@[simp] theorem Link.discard_rxFill (l : Link) (c : Discard) : (l.discard c).rxFill = l.rxFill := rfl
@[simp] theorem Link.discard_rxLastDelim (l : Link) (c : Discard) : (l.discard c).rxLastDelim = l.rxLastDelim := rfl
@[simp] theorem Link.discard_txCrc (l : Link) (c : Discard) : (l.discard c).txCrc = l.txCrc := rfl
@[simp] theorem Link.discard_txFirst (l : Link) (c : Discard) : (l.discard c).txFirst = l.txFirst := rfl
@[simp] theorem Link.discard_txSeq (l : Link) (c : Discard) : (l.discard c).txSeq = l.txSeq := rfl
@[simp] theorem Link.discard_rxSeq (l : Link) (c : Discard) : (l.discard c).rxSeq = l.rxSeq := rfl
@[simp] theorem Link.discard_regValid (l : Link) (c : Discard) : (l.discard c).regValid = l.regValid := rfl
@[simp] theorem Link.discard_regCmdId (l : Link) (c : Discard) : (l.discard c).regCmdId = l.regCmdId := rfl
@[simp] theorem Link.discard_regEntry (l : Link) (c : Discard) : (l.discard c).regEntry = l.regEntry := rfl
@[simp] theorem Link.discard_busy (l : Link) (c : Discard) : (l.discard c).busy = l.busy := rfl
@[simp] theorem Link.discard_slotCmdId (l : Link) (c : Discard) : (l.discard c).slotCmdId = l.slotCmdId := rfl
@[simp] theorem Link.discard_slotEntry (l : Link) (c : Discard) : (l.discard c).slotEntry = l.slotEntry := rfl
@[simp] theorem Link.discard_slotSubId (l : Link) (c : Discard) : (l.discard c).slotSubId = l.slotSubId := rfl
@[simp] theorem Link.discard_slotDst (l : Link) (c : Discard) : (l.discard c).slotDst = l.slotDst := rfl
@[simp] theorem Link.discard_notifRec (l : Link) (c : Discard) : (l.discard c).notifRec = l.notifRec := rfl
@[simp] theorem Link.discard_replies (l : Link) (c : Discard) : (l.discard c).replies = l.replies := rfl
@[simp] theorem Link.discard_tx (l : Link) (c : Discard) : (l.discard c).tx = l.tx := rfl
@[simp] theorem Link.discard_ev (l : Link) (c : Discard) : (l.discard c).ev = l.ev := rfl
@[simp] theorem Link.discard_statuses (l : Link) (c : Discard) : (l.discard c).statuses = l.statuses := rfl
@[simp] theorem Link.discard_discards (l : Link) (c : Discard) : (l.discard c).discards = l.discards ++ [c] := rfl
@[simp] theorem Link.discard_reads (l : Link) (c : Discard) : (l.discard c).reads = l.reads := rfl
@[simp] theorem Link.discard_crcOut (l : Link) (c : Discard) : (l.discard c).crcOut = l.crcOut := rfl

@[simp] theorem andThen_next {σ τ : Type} (s : σ) (f : σ → Host.Outcome τ Fault Refusal) :
    andThen (.next s) f = f s := rfl
@[simp] theorem andThen_fault {σ τ : Type} (r : Fault) (f : σ → Host.Outcome τ Fault Refusal) :
    andThen (.fault r) f = .fault r := rfl
@[simp] theorem andThen_refused {σ τ : Type} (r : Refusal) (f : σ → Host.Outcome τ Fault Refusal) :
    andThen (.refused r) f = .refused r := rfl
@[simp] theorem onNext_next {σ τ : Type} (s : σ) (f : σ → τ) : onNext (.next s) f = .next (f s) := rfl
@[simp] theorem onNext_fault {σ τ : Type} (r : Fault) (f : σ → τ) : onNext (.fault r) f = .fault r := rfl
@[simp] theorem onNext_refused {σ τ : Type} (r : Refusal) (f : σ → τ) : onNext (.refused r) f = .refused r := rfl
@[simp] theorem State.lift_next (s : State) (l : Link) : s.lift (.next l) = .next (s.setLink l) := rfl
@[simp] theorem State.lift_fault (s : State) (r : Fault) : s.lift (.fault r) = .fault r := rfl
@[simp] theorem State.lift_refused (s : State) (r : Refusal) : s.lift (.refused r) = .refused r := rfl

/-- A mapped outcome answers a next state only where the outcome does. -/
theorem onNext_eq_next {σ τ : Type} {o : Host.Outcome σ Fault Refusal} {f : σ → τ} {t : τ}
    (h : onNext o f = .next t) : ∃ s, o = .next s ∧ f s = t := by
  cases o with
  | next s => exact ⟨s, rfl, by simpa [onNext, andThen] using h⟩
  | fault r => simp [onNext, andThen] at h
  | refused r => simp [onNext, andThen] at h

/-- A chain answers a next state only where both parts do. -/
theorem andThen_eq_next {σ τ : Type} {o : Host.Outcome σ Fault Refusal} {f : σ → Host.Outcome τ Fault Refusal} {t : τ}
    (h : andThen o f = .next t) : ∃ s, o = .next s ∧ f s = .next t := by
  cases o with
  | next s => exact ⟨s, rfl, h⟩
  | fault r => simp [andThen] at h
  | refused r => simp [andThen] at h

/-- A lifted operation changes nothing of the machine but the addressed link. -/
theorem State.lift_eq_next {s t : State} {o : LinkOut} (h : s.lift o = .next t) :
    ∃ l, o = .next l ∧ t = s.setLink l := by
  obtain ⟨l, h1, h2⟩ := onNext_eq_next h
  exact ⟨l, h1, h2.symm⟩

/-- A lifted operation followed by an update of its link is the update of the machine's addressed link. -/
theorem State.lift_onNext (s : State) (o : LinkOut) (f : Link → Link) :
    s.lift (onNext o f) = onNext (s.lift o) fun t => t.setLink (f t.link) := by
  cases o <;> rfl

end Sys2Proof.Machine
end

