-- ==== Sys2Proof/Laws/Framer.lean ====
section
/-! SUPPORT. What each operation of the framer and the send path does, said once (40_link_framer.md, 41). -/

namespace Sys2Proof.Machine

@[simp] theorem crcFold_nil (p : Params) (c : Crc) : crcFold p c [] = c := rfl
@[simp] theorem crcFold_cons (p : Params) (c : Crc) (b : Byte) (s : List Byte) :
    crcFold p c (b :: s) = crcFold p (crcStep p c b) s := rfl

theorem crcFold_append (p : Params) (c : Crc) (s t : List Byte) :
    crcFold p c (s ++ t) = crcFold p (crcFold p c s) t := by simp [crcFold]

@[simp] theorem stuff_nil (p : Params) : stuff p [] = [] := rfl
@[simp] theorem stuff_cons (p : Params) (u : Byte) (s : List Byte) : stuff p (u :: s) = stuffByte p u ++ stuff p s := by
  simp [stuff]

theorem stuff_append (p : Params) (s t : List Byte) : stuff p (s ++ t) = stuff p s ++ stuff p t := by simp [stuff]

/-- TX_OPEN changes `txCrc` and emits the delimiter. -/
theorem txOpen_eq (p : Params) (l : Link) :
    txOpen p l = { l with txCrc := p.seed, tx := l.tx ++ [.byte p.delim] } := rfl

/-- TX_WRITE changes `txCrc` and emits the stuffed byte. -/
theorem txWrite_eq (p : Params) (u : Byte) (l : Link) :
    txWrite p u l = { l with txCrc := crcStep p l.txCrc u, tx := l.tx ++ (stuffByte p u).map .byte } := rfl

/-- A run of TX_WRITE folds the bytes into `txCrc` and emits them stuffed. -/
theorem txWrites_eq (p : Params) (us : List Byte) (l : Link) :
    txWrites p us l = { l with txCrc := crcFold p l.txCrc us, tx := l.tx ++ (stuff p us).map .byte } := by
  induction us generalizing l with
  | nil => simp [txWrites]
  | cons u us ih =>
    have h : txWrites p (u :: us) l = txWrites p us (txWrite p u l) := rfl
    rw [h, ih, txWrite_eq]
    simp

/-- TX_CLOSE emits the two check bytes stuffed, the delimiter and the flush. -/
theorem txClose_eq (p : Params) (l : Link) :
    txClose p l = { l with
      txCrc := crcFold p l.txCrc [(~~~ l.txCrc).lo, (~~~ l.txCrc).hi]
      tx := l.tx ++ (stuff p [(~~~ l.txCrc).lo, (~~~ l.txCrc).hi] ++ [p.delim]).map .byte ++ [.flush] } := by
  simp [txClose, txWrite_eq, Link.emit, Link.flush]

/-- What RX_ADD's last lines can do: abort a full frame, or store the byte. -/
theorem rxStore_cases (p : Params) (b : Byte) (l : Link) :
    (l.rxFill = p.rxCap ∧ rxStore p b l = { l with rxFill := 0, rxState := .idle }.discard .overflow) ∨
    (l.rxFill ≠ p.rxCap ∧ rxStore p b l =
      { l with rxBuf := l.rxBuf.set l.rxFill b, rxFill := l.rxFill + 1, rxCrc := crcStep p l.rxCrc b }) := by
  unfold rxStore rxAbort
  split
  · exact .inl ⟨‹_›, rfl⟩
  · exact .inr ⟨‹_›, rfl⟩

/-- What RX_ADD can do: note an escape, or store the byte, unescaped where one is pending. -/
theorem rxAdd_cases (p : Params) (b : Byte) (l : Link) :
    (b = p.esc ∧ rxAdd p b l = { l with rxEsc := true }) ∨
    (b ≠ p.esc ∧ l.rxEsc = true ∧ rxAdd p b l = rxStore p (b ^^^ p.mask) { l with rxEsc := false }) ∨
    (b ≠ p.esc ∧ l.rxEsc = false ∧ rxAdd p b l = rxStore p b l) := by
  unfold rxAdd
  split
  · exact .inl ⟨‹_›, rfl⟩
  · split
    · exact .inr (.inl ⟨‹_›, ‹_›, rfl⟩)
    · exact .inr (.inr ⟨‹_›, by simpa using ‹¬ l.rxEsc = true›, rfl⟩)

/-- What RX_CLOSE can do: discard, or deliver the payload to FRAME_RECEIVED. -/
theorem rxClose_cases (p : Params) (l : Link) :
    rxClose p l = .next ((rxShut l).discard .crc) ∨ rxClose p l = .next ((rxShut l).discard .empty) ∨
    (2 < l.rxFill ∧ l.rxCrc = p.good ∧
      rxClose p l = frameReceived p (l.rxBuf.take (l.rxFill - 2)) (rxShut l)) := by
  unfold rxClose
  split
  · rename_i h
    split
    · exact .inr (.inl rfl)
    · exact .inr (.inr ⟨by omega, h.2, rfl⟩)
  · exact .inl rfl

end Sys2Proof.Machine
end

