-- ==== Sys2Proof/Laws/Memory.lean ====
section
/-! SUPPORT. The storage of a link (20_memory.md R50 to R53): read after write on the reply records, and every
operation on storage keeps `Memory.wf`. -/

namespace Sys2Proof.Machine

/-! ### The reply store -/

@[simp] theorem findReply_nil (d : Nat) : findReply [] d = none := rfl

theorem findReply_cons (d k : Nat) (r : Record) (rs : List (Nat × Record)) :
    findReply ((k, r) :: rs) d = if d = k then some r else findReply rs d := by
  simp only [findReply, List.lookup]
  by_cases h : d = k
  · simp [h]
  · have hb : (d == k) = false := by simpa using h
    simp [h, hb]

/-- Reading a record after writing it gives what was written. -/
theorem findReply_putReply_same (rs : List (Nat × Record)) (d : Nat) (r : Record) :
    findReply (putReply rs d r) d = some r := by
  induction rs with
  | nil => simp [putReply, findReply_cons]
  | cons x rs ih =>
    obtain ⟨k, q⟩ := x
    unfold putReply
    split
    · simp [findReply_cons]
    · split
      · simp [findReply_cons]
      · rename_i h
        simp [findReply_cons, ih, h]

/-- Writing a record leaves every other handle alone. -/
theorem findReply_putReply_other (rs : List (Nat × Record)) {d e : Nat} (r : Record) (h : e ≠ d) :
    findReply (putReply rs d r) e = findReply rs e := by
  induction rs with
  | nil => simp [putReply, findReply_cons, h]
  | cons x rs ih =>
    obtain ⟨k, q⟩ := x
    unfold putReply
    split
    · simp [findReply_cons, h]
    · split
      · subst_vars; simp [findReply_cons, h]
      · simp [findReply_cons, ih]

/-- The handles of a put store rise, above any bound below both. -/
theorem handlesRise_cons {d : Nat} {r : Record} {rs : List (Nat × Record)} :
    handlesRise ((d, r) :: rs) = true ↔ (∀ x ∈ rs.head?, d < x.1) ∧ handlesRise rs = true := by
  cases rs with
  | nil => simp [handlesRise]
  | cons x rs => simp [handlesRise]

theorem head?_putReply (rs : List (Nat × Record)) (d : Nat) (r : Record) :
    ∀ x ∈ (putReply rs d r).head?, x.1 = d ∨ ∃ y ∈ rs.head?, x.1 = y.1 := by
  cases rs with
  | nil => simp [putReply]
  | cons y rs =>
    obtain ⟨k, q⟩ := y
    unfold putReply
    split
    · simp
    · split
      · simp
      · simp

/-- Writing a record keeps the handles strictly rising. -/
theorem putReply_handlesRise {rs : List (Nat × Record)} (h : handlesRise rs = true) (d : Nat) (r : Record) :
    handlesRise (putReply rs d r) = true := by
  induction rs with
  | nil => simp [putReply, handlesRise]
  | cons x rs ih =>
    obtain ⟨k, q⟩ := x
    rw [handlesRise_cons] at h
    unfold putReply
    split
    · rename_i hlt
      rw [handlesRise_cons, handlesRise_cons]
      exact ⟨by simpa using hlt, h⟩
    · split
      · subst_vars
        exact handlesRise_cons.mpr h
      · rename_i h1 h2
        refine handlesRise_cons.mpr ⟨fun x hx => ?_, ih h.2⟩
        obtain hd | ⟨y, hy, hxy⟩ := head?_putReply rs d r x hx
        · omega
        · have := h.1 y hy; omega

/-- Every record of a put store is the one put or was there. -/
theorem mem_putReply {rs : List (Nat × Record)} {d : Nat} {r : Record} {x : Nat × Record}
    (h : x ∈ putReply rs d r) : x = (d, r) ∨ x ∈ rs := by
  induction rs with
  | nil => simpa [putReply] using h
  | cons y rs ih =>
    obtain ⟨k, q⟩ := y
    unfold putReply at h
    split at h
    · simpa using h
    · split at h
      · simp only [List.mem_cons] at h ⊢
        tauto
      · simp only [List.mem_cons] at h ⊢
        rcases h with h | h
        · exact .inr (.inl h)
        · rcases ih h with h | h
          · exact .inl h
          · exact .inr (.inr h)

/-- A record found stands in the store. -/
theorem mem_of_findReply {rs : List (Nat × Record)} {d : Nat} {r : Record} (h : findReply rs d = some r) :
    (d, r) ∈ rs := by
  induction rs with
  | nil => simp at h
  | cons y rs ih =>
    obtain ⟨k, q⟩ := y
    rw [findReply_cons] at h
    split at h
    · simp_all
    · exact List.mem_cons_of_mem _ (ih h)

/-! ### Typed records -/

theorem Record.write_names (r : Record) (n : FieldName) (v : Value) :
    (r.write n v).fields.map ReplyField.name = r.fields.map ReplyField.name := by
  simp only [Record.write, List.map_map]
  refine List.map_congr_left fun g _ => ?_
  simp only [Function.comp]
  split <;> rfl

/-- Writing a field keeps every field's name, width and kind. -/
@[simp] theorem Record.write_shape (r : Record) (n : FieldName) (v : Value) : (r.write n v).shape = r.shape := by
  simp only [Record.shape, Record.write, List.map_map]
  refine List.map_congr_left fun g _ => ?_
  simp only [Function.comp]
  split <;> rfl

/-- A new result code keeps a record's shape. -/
@[simp] theorem Record.withRc_shape (r : Record) (rc : Option Byte) : Record.shape { r with rc := rc } = r.shape := rfl

/-- The field writes of a reply keep the record's shape. -/
@[simp] theorem Record.writeAll_shape (r : Record) (rep : List Field) (R : List Byte) :
    (r.writeAll rep R).shape = r.shape := by
  induction rep generalizing r with
  | nil => rfl
  | cons f rep ih => exact (ih _).trans (Record.write_shape r f.name _)

theorem Record.hasField_iff {r : Record} {f : Field} : r.hasField f = true ↔ fieldShape f ∈ r.shape := by
  simp [Record.hasField]

theorem Record.hasFields_iff {r : Record} {rep : List Field} :
    r.hasFields rep = true ↔ ∀ f ∈ rep, fieldShape f ∈ r.shape := by simp [Record.hasFields, Record.hasField]

/-- A record is of an entry's shape where its fields' shapes are the layout's, up to order (R179). -/
theorem Record.fits_iff {r : Record} {rep : List Field} :
    r.fits rep = true ↔ r.shape.Perm (rep.map fieldShape) := List.isPerm_iff

/-- A record of an entry's shape has every field the entry's replies write (R179). -/
theorem Record.hasFields_of_fits {r : Record} {rep : List Field} (h : r.fits rep = true) : r.hasFields rep = true :=
  Record.hasFields_iff.mpr fun _ hf => (Record.fits_iff.mp h).mem_iff.mpr (List.mem_map_of_mem hf)

theorem name_inj_of_nodup {fs : List ReplyField} (h : (fs.map ReplyField.name).Nodup) {g k : ReplyField}
    (hg : g ∈ fs) (hk : k ∈ fs) (e : g.name = k.name) : g = k :=
  List.inj_on_of_nodup_map h hg hk e

/-- Writing a value of the field's type keeps a record typed. -/
theorem Record.write_ok {r : Record} (h : r.ok = true) {f : Field} (hf : r.hasField f = true) {v : Value}
    (hv : typedValue f.kind f.w v = true) : (r.write f.name v).ok = true := by
  simp only [Record.ok, Bool.and_eq_true, decide_eq_true_eq] at h ⊢
  refine ⟨by rw [Record.write_names]; exact h.1, ?_⟩
  simp only [Record.write, List.all_map, List.all_eq_true] at h ⊢
  intro g hg
  simp only [Function.comp]
  split
  · rename_i hn
    obtain ⟨k, hk, hs⟩ := List.mem_map.mp (Record.hasField_iff.mp hf)
    obtain ⟨hkn, hkw, hkk⟩ : k.name = f.name ∧ k.w = f.w ∧ k.kind = f.kind := by
      simpa [ReplyField.shape, fieldShape] using hs
    obtain rfl := name_inj_of_nodup h.1 hg hk (hn.trans hkn.symm)
    simp [ReplyField.ok, hkw, hkk, hv]
  · exact h.2 g hg

theorem beValue_foldl (s : List Byte) (n : Nat) :
    s.foldl (fun v (b : Byte) => 256 * v + b.toNat) n < 256 ^ s.length * (n + 1) := by
  induction s generalizing n with
  | nil => simp
  | cons b s ih =>
    refine lt_of_lt_of_le (ih _) ?_
    have hb : b.toNat + 1 ≤ 256 := b.isLt
    have h : 256 * n + b.toNat + 1 ≤ 256 * (n + 1) := by omega
    calc 256 ^ s.length * (256 * n + b.toNat + 1) ≤ 256 ^ s.length * (256 * (n + 1)) := Nat.mul_le_mul_left _ h
      _ = 256 ^ (b :: s).length * (n + 1) := by rw [List.length_cons, pow_succ]; ring

/-- `BE(s) < 256^|s|` (R11). -/
theorem beValue_lt (s : List Byte) : beValue s < 256 ^ s.length := by simpa [beValue] using beValue_foldl s 0

theorem slice_length {s : List Byte} {o w : Nat} (h : o + w ≤ s.length) : (slice s o w).length = w := by
  simp [slice]; omega

/-- A field that fits its bytes decodes to a value of its type (R82). -/
theorem decodeField_typed {f : Field} {s : List Byte} (h : f.o + f.w ≤ s.length) :
    typedValue f.kind f.w (decodeField f s) = true := by
  have hl := slice_length h
  cases hk : f.kind
  · have := beValue_lt (slice s f.o f.w)
    rw [hl] at this
    simpa [typedValue, decodeField, hk] using this
  · simpa [typedValue, decodeField, hk] using hl

/-- The field writes of a reply keep a record typed, when its fields are there and fit the bytes. -/
theorem Record.writeAll_ok {rep : List Field} {R : List Byte} {r : Record} (h : r.ok = true)
    (hf : r.hasFields rep = true) (hl : ∀ f ∈ rep, f.o + f.w ≤ R.length) : (r.writeAll rep R).ok = true := by
  induction rep generalizing r with
  | nil => exact h
  | cons f rep ih =>
    have hf' := Record.hasFields_iff.mp hf
    refine ih (Record.write_ok h (Record.hasField_iff.mpr (hf' f (by simp))) (decodeField_typed (hl f (by simp)))) ?_
      fun g hg => hl g (by simp [hg])
    exact Record.hasFields_iff.mpr fun g hg => by simpa using hf' g (by simp [hg])

/-! ### `Memory.wf` -/

theorem Memory.wf_iff {p : Params} {l : Link} : Memory.wf p l = true ↔
    l.rxBuf.length = p.rxCap ∧ l.rxFill ≤ p.rxCap ∧ handlesRise l.replies = true ∧ ∀ x ∈ l.replies, x.2.ok = true := by
  simp [Memory.wf, and_assoc]

/-- RX_ADD's store keeps the storage well formed. -/
theorem rxStore_wf {p : Params} {l : Link} (h : Memory.wf p l = true) (b : Byte) : Memory.wf p (rxStore p b l) = true := by
  rw [Memory.wf_iff] at h ⊢
  obtain ⟨hb, hf, hr⟩ := h
  rcases rxStore_cases p b l with ⟨_, e⟩ | ⟨hne, e⟩ <;> rw [e]
  · exact ⟨hb, Nat.zero_le _, hr⟩
  · exact ⟨by simpa using hb, by show l.rxFill + 1 ≤ _; omega, hr⟩

/-- A closed or aborted frame's empty buffer is well formed. -/
theorem rxShut_wf {p : Params} {l : Link} (h : Memory.wf p l = true) : Memory.wf p (rxShut l) = true := by
  rw [Memory.wf_iff] at h ⊢
  exact ⟨h.1, Nat.zero_le _, h.2.2⟩

/-- A host write or a reply's write of a typed record keeps the storage well formed. -/
theorem putReply_wf {p : Params} {l : Link} (h : Memory.wf p l = true) (d : Nat) {r : Record} (hr : r.ok = true) :
    Memory.wf p { l with replies := putReply l.replies d r } = true := by
  rw [Memory.wf_iff] at h ⊢
  refine ⟨h.1, h.2.1, putReply_handlesRise h.2.2.1 d r, fun x hx => ?_⟩
  rcases mem_putReply hx with rfl | hx
  · exact hr
  · exact h.2.2.2 x hx

/-- What a completed reply does, said once: it writes the record of the slot, emits the event and ends the command. -/
theorem completeReply_cases {p : Params} {C : CmdEntry} {cmd rc : Byte} {R : List Byte} {l t : Link}
    (h : completeReply p C cmd rc R l = .next t) :
    ∃ r, findReply l.replies l.slotDst = some r ∧ ∃ r', ((rc = p.rcOk ∧ r.hasFields C.rep = true ∧
        r' = Record.writeAll { r with rc := some rc } C.rep R) ∨ (rc ≠ p.rcOk ∧ r' = { r with rc := some rc })) ∧
      t = { l with replies := putReply l.replies l.slotDst r', ev := l.ev ++ [.replyReady cmd], busy := false } := by
  unfold completeReply at h
  split at h
  · exact absurd h (by simp)
  · rename_i r hr
    refine ⟨r, hr, ?_⟩
    dsimp only at h
    split at h
    · rename_i hrc
      split at h
      · rename_i hfit
        refine ⟨_, .inl ⟨hrc, hfit, rfl⟩, ?_⟩
        cases h; rfl
      · exact absurd h (by simp)
    · rename_i hrc
      refine ⟨_, .inr ⟨hrc, rfl⟩, ?_⟩
      cases h; rfl

/-- A completed reply keeps the storage well formed (R177: "Every field fits"). -/
theorem completeReply_wf {p : Params} {C : CmdEntry} {cmd rc : Byte} {R : List Byte} {l t : Link}
    (hfit : rc = p.rcOk → ∀ f ∈ C.rep, f.o + f.w ≤ R.length) (hw : Memory.wf p l = true)
    (h : completeReply p C cmd rc R l = .next t) : Memory.wf p t = true := by
  obtain ⟨r, hr, r', hr', rfl⟩ := completeReply_cases h
  have hok : r.ok = true := (Memory.wf_iff.mp hw).2.2.2 _ (mem_of_findReply hr)
  refine putReply_wf (l := { l with ev := l.ev ++ [.replyReady cmd], busy := false }) ?_ l.slotDst ?_
  · simpa [Memory.wf] using hw
  · rcases hr' with ⟨hrc, hf, rfl⟩ | ⟨_, rfl⟩
    · exact Record.writeAll_ok (r := { r with rc := some rc }) (by simpa [Record.ok] using hok)
        hf (hfit hrc)
    · simpa [Record.ok] using hok

/-- A host access keeps the storage well formed. -/
theorem hostAccess_wf {p : Params} {a : HostAccess} {l t : Link} (hw : Memory.wf p l = true)
    (h : hostAccess a l = .next t) : Memory.wf p t = true := by
  cases a with
  | readNotif =>
    simp only [hostAccess] at h
    split at h
    · exact absurd h (by simp)
    · cases h; simpa [Memory.wf] using hw
  | readReply dst sel =>
    simp only [hostAccess, readReply] at h
    repeat' split at h
    all_goals first
      | (cases h; done)
      | (cases h; simpa [Memory.wf] using hw)
  | writeReply dst r =>
    simp only [hostAccess] at h
    split at h
    · exact absurd h (by simp)
    · split at h
      · exact absurd h (by simp)
      · rename_i hr
        cases h
        exact putReply_wf hw dst (by simpa using hr)

/-- RESET keeps the storage well formed: a fresh buffer, the host's records as they are (R250). -/
theorem resetLink_wf {p : Params} {l : Link} (hw : Memory.wf p l = true) (n : Nat) :
    Memory.wf p (resetLink p n l) = true := by
  rw [Memory.wf_iff] at hw ⊢
  exact ⟨by simp [resetLink], Nat.zero_le _, hw.2.2⟩

/-- The storage after reset is well formed. -/
theorem reset_wf : Memory.wf State.reset.cfg.toParams State.reset.link = true := by
  rw [Memory.wf_iff]
  refine ⟨?_, Nat.zero_le _, ?_, ?_⟩
  · simp [State.reset, Link.reset]
  · decide
  · decide

end Sys2Proof.Machine
end

