-- ==== Sys2Proof/Laws/Engine.lean ====
section
/-! SUPPORT. What each operation of the Packet Transport and the Command Engine can do, said once (41, 42). -/

namespace Sys2Proof.Machine

/-- A peer frame is new exactly where R146 says so. -/
theorem isNewFrame_iff {flags : Byte} {l : Link} :
    isNewFrame flags l = true ↔ syncOf flags = 1 ∨ seqOf flags ≠ l.rxSeq := by simp [isNewFrame]

/-- SYNC, as a bit of the flags byte. -/
theorem syncOf_eq_one : ∀ flags : Byte, syncOf flags = 1 ↔ flags.getLsbD 3 = true := by decide

/-- SEND_ACK writes `txCrc` and emits on TX, nothing else (R149). -/
theorem sendAck_cases (p : Params) (cmd : Byte) (l : Link) :
    ∃ v out, sendAck p cmd l = { l with txCrc := v, tx := l.tx ++ out } :=
  ⟨_, _, by simp only [sendAck, ackHeader, txClose_eq, txWrites_eq, txOpen_eq, List.append_assoc]; rfl⟩

/-- A command header writes `txCrc` and emits on TX, nothing else: the send state stays (R28, R142). -/
theorem commandHeader_cases (p : Params) (cmd len extraFlags : Byte) (l : Link) :
    ∃ v out, commandHeader p cmd len extraFlags l = { l with txCrc := v, tx := l.tx ++ out } :=
  ⟨_, _, by simp only [commandHeader, txWrites_eq]; rfl⟩

/-- SEND_COMMAND writes the registration, the send state and `txCrc`, and emits on TX, nothing else (R140). -/
theorem sendFrame_cases (p : Params) (cmd extraFlags : Byte) (A : List Byte) (e : Nat) (l : Link) :
    ∃ v out, sendFrame p cmd extraFlags A e l =
      { l with regValid := true, regCmdId := cmd, regEntry := e, txFirst := false, txSeq := nextSeq l ^^^ 1
               txCrc := v, tx := l.tx ++ out } :=
  ⟨_, _, by
    simp only [sendFrame, commandHeader, txClose_eq, txWrites_eq, txOpen_eq, List.append_assoc]
    rfl⟩

/-- NOTIF_DECODE drops the notification, or replaces the record and announces it (R180 to R182). -/
theorem notifDecode_cases (p : Params) (cmd : Byte) (A : List Byte) (l : Link) :
    (∃ d, notifDecode p cmd A l = l.discard d) ∨
    ∃ N ∈ p.ncat, N.cmdId = cmd ∧ N.minLen ≤ A.length ∧ N.size A.length ≤ p.notifCap ∧
      notifDecode p cmd A l =
        { l with notifRec := some (decodeNotif N A), ev := l.ev ++ [.notifReady cmd p.noSubcmd] } := by
  unfold notifDecode
  split
  · exact .inl ⟨_, rfl⟩
  · rename_i N h
    have hc : N.cmdId = cmd := by simpa using List.find?_some h
    split
    · exact .inl ⟨_, rfl⟩
    · split
      · exact .inl ⟨_, rfl⟩
      · exact .inr ⟨N, List.mem_of_find?_eq_some h, hc, by omega, by omega, rfl⟩

/-- What PEER_PATH does before its acknowledgement (R146, R147): it discards a duplicate, or takes the new frame's
sequence bit and forwards its payload. -/
theorem peerAccept_cases (p : Params) (cmd flags : Byte) (A : List Byte) (l : Link) :
    (isNewFrame flags l = false ∧ peerAccept p cmd flags A l = l.discard .duplicate) ∨
    (isNewFrame flags l = true ∧ A = [] ∧ peerAccept p cmd flags A l = { l with rxSeq := seqOf flags }) ∨
    (isNewFrame flags l = true ∧ A ≠ [] ∧
      peerAccept p cmd flags A l = notifDecode p cmd A { l with rxSeq := seqOf flags }) := by
  unfold peerAccept
  cases hn : isNewFrame flags l with
  | false => exact .inl ⟨rfl, rfl⟩
  | true =>
    cases A with
    | nil => exact .inr (.inl ⟨rfl, rfl, rfl⟩)
    | cons a A => exact .inr (.inr ⟨rfl, List.cons_ne_nil a A, rfl⟩)

/-- Everything PEER_PATH can do: new contents of `rxSeq`, `notifRec`, `txCrc`, the trace and the outputs, with at most
one event. -/
theorem peerPath_cases (p : Params) (cmd flags : Byte) (A : List Byte) (l : Link) :
    ∃ q n v out ev ds, peerPath p cmd flags A l =
        { l with rxSeq := q, notifRec := n, txCrc := v, tx := l.tx ++ out, ev := l.ev ++ ev, discards := ds } ∧
      (ev = [] ∨ ev = [.notifReady cmd p.noSubcmd]) := by
  obtain ⟨v, out, ha⟩ := sendAck_cases p cmd (peerAccept p cmd flags A l)
  unfold peerPath
  rw [ha]
  rcases peerAccept_cases p cmd flags A l with ⟨-, h⟩ | ⟨-, -, h⟩ | ⟨-, -, h⟩ <;> rw [h]
  · exact ⟨_, _, v, out, [], _, by simp [Link.discard]; exact ⟨rfl, rfl, rfl⟩, .inl rfl⟩
  · exact ⟨_, _, v, out, [], _, by simp; exact ⟨rfl, rfl, rfl⟩, .inl rfl⟩
  · rcases notifDecode_cases p cmd A { l with rxSeq := seqOf flags } with ⟨d, h⟩ | ⟨N, -, -, -, -, h⟩ <;> rw [h]
    · exact ⟨_, _, v, out, [], _, by simp [Link.discard]; exact ⟨rfl, rfl, rfl⟩, .inl rfl⟩
    · exact ⟨_, _, v, out, [_], _, rfl, .inr rfl⟩

/-- Where REPLY_HANDLE answers a next state it discards the reply, or the reply passed R174 to R176 and completes. -/
theorem replyHandle_cases {p : Params} {e : Nat} {cmd rc : Byte} {R : List Byte} {l t : Link}
    (h : replyHandle p e cmd rc R l = .next t) :
    (∃ d, t = l.discard d) ∨
    (l.busy = true ∧ l.slotCmdId = cmd ∧ ∃ C, p.cat[e]? = some C ∧ (C.param = true → R.head? = some l.slotSubId) ∧
      (rc = p.rcOk → C.minReply ≤ R.length) ∧ completeReply p C cmd rc R l = .next t) := by
  unfold replyHandle at h
  split at h
  · cases h
    exact .inl ⟨_, rfl⟩
  · rename_i hb
    split at h
    · cases h
    · rename_i C hC
      split at h
      · cases h
        exact .inl ⟨_, rfl⟩
      · rename_i hs
        split at h
        · cases h
          exact .inl ⟨_, rfl⟩
        · rename_i hm
          simp only [not_or, Bool.not_eq_false, ne_eq, not_not] at hb
          refine .inr ⟨hb.1, hb.2, C, hC, fun hp => ?_, fun hr => ?_, h⟩
          · simpa [hp, subIdWrong] using hs
          · exact Nat.le_of_not_lt fun hl => hm ⟨hr, hl⟩

/-- Where REPLY_PATH answers a next state it discards the reply, or clears the matching registration and hands the
reply on. -/
theorem replyPath_cases {p : Params} {cmd : Byte} {A : List Byte} {l t : Link} (h : replyPath p cmd A l = .next t) :
    (∃ d, t = l.discard d) ∨
    (l.regValid = true ∧ l.regCmdId = cmd ∧ ∃ rc R, A = rc :: R ∧
      replyHandle p l.regEntry cmd rc R { l with regValid := false } = .next t) := by
  cases A with
  | nil =>
    cases h
    exact .inl ⟨_, rfl⟩
  | cons rc R =>
    simp only [replyPath] at h
    split at h
    · rename_i hm
      exact .inr ⟨hm.1, hm.2, rc, R, rfl, h⟩
    · cases h
      exact .inl ⟨_, rfl⟩

/-- Where FRAME_RECEIVED answers a next state it discards the payload, or took REPLY_PATH or PEER_PATH. -/
theorem frameReceived_cases {p : Params} {P : List Byte} {l t : Link} (h : frameReceived p P l = .next t) :
    (∃ d, t = l.discard d) ∨
    (∃ cmd A, replyPath p cmd A l = .next t) ∨ ∃ cmd flags A, t = peerPath p cmd flags A l := by
  unfold frameReceived at h
  split at h
  · rename_i cmd len flags A
    split at h
    · cases h
      exact .inl ⟨_, rfl⟩
    · split at h
      · exact .inr (.inl ⟨cmd, A, h⟩)
      · cases h
        exact .inr (.inr ⟨cmd, flags, A, rfl⟩)
  · cases h
    exact .inl ⟨_, rfl⟩

/-- Where RX_CLOSE answers a next state it discards the frame, or delivered it to FRAME_RECEIVED. -/
theorem rxClose_next {p : Params} {l t : Link} (h : rxClose p l = .next t) :
    (∃ d, t = (rxShut l).discard d) ∨ frameReceived p (l.rxBuf.take (l.rxFill - 2)) (rxShut l) = .next t := by
  unfold rxClose at h
  split at h
  · split at h
    · cases h
      exact .inl ⟨_, rfl⟩
    · exact .inr h
  · cases h
    exact .inl ⟨_, rfl⟩

/-- The three arms of RX_BYTE (R103): no effect, a byte added (to a frame it opens, or to the one in progress), or a
frame closed. -/
theorem rxByte_cases {p : Params} {b : Byte} {l t : Link} (h : rxByte p b l = .next t) :
    ∃ u, t = { u with rxLastDelim := decide (b = p.delim) } ∧
      ((l.rxState = .idle ∧ (u = l ∨ b ≠ p.delim ∧ u = rxAdd p b (rxOpen p l))) ∨
       (l.rxState = .receiving ∧ (b ≠ p.delim ∧ u = rxAdd p b l ∨ b = p.delim ∧ rxClose p l = .next u))) := by
  obtain ⟨u, hu, rfl⟩ := onNext_eq_next h
  refine ⟨u, rfl, ?_⟩
  unfold rxArm at hu
  cases hs : l.rxState with
  | idle =>
    rw [hs] at hu
    dsimp only at hu
    split at hu
    · rename_i hc
      cases hu
      exact .inl ⟨rfl, .inr ⟨hc.2, rfl⟩⟩
    · cases hu
      exact .inl ⟨rfl, .inl rfl⟩
  | receiving =>
    rw [hs] at hu
    dsimp only at hu
    split at hu
    · rename_i hc
      cases hu
      exact .inr ⟨rfl, .inl ⟨hc, rfl⟩⟩
    · rename_i hc
      exact .inr ⟨rfl, .inr ⟨not_not.mp hc, hu⟩⟩

/-- Where INVOKE answers a next state REQ_WF held and it answered Busy, or sent the request and recorded the slot. -/
theorem invoke_cases {p : Params} {e dst : Nat} {args : List Value} {l t : Link} (h : invoke p e args dst l = .next t) :
    ∃ C, p.cat[e]? = some C ∧ reqWf C args (findReply l.replies dst) = true ∧
      ((l.busy = true ∧ t = l.answer .busy) ∨
       (l.busy = false ∧ t = { sendFrame p C.cmdId 0 (encodeRequest C args) e l with
          busy := true, slotCmdId := C.cmdId, slotEntry := e, slotSubId := C.subId, slotDst := dst }.answer .ok)) := by
  unfold invoke at h
  split at h
  · cases h
  · rename_i C hC
    split at h
    · rename_i hw
      refine ⟨C, hC, hw, ?_⟩
      split at h
      · rename_i hb
        cases h
        exact .inl ⟨hb, rfl⟩
      · rename_i hb
        obtain ⟨u, hu, rfl⟩ := onNext_eq_next h
        unfold sendCommand at hu
        split at hu
        · cases hu
          exact .inr ⟨by simpa using hb, rfl⟩
        · cases hu
    · cases h

end Sys2Proof.Machine
end

