-- ==== Sys2Proof/Laws/PerInstr.lean ====
section
/-! SUPPORT. For every operation: its encoding has the fixed bits of its row of spec/opcode_table.json. -/

namespace Sys2Proof.Laws

/-- The fixed bits of an opcode table row: how many bytes its word has, and its mask and match. -/
structure Row where
  nbytes : Nat
  mask : BitVec 24
  value : BitVec 24

/-- The row of each operation, under the table's default link constants. -/
def row : Instr → Row
  | .rxByte _ => ⟨1, 0x3, 0x0⟩
  | .invoke _ _ _ => ⟨1, 0x3, 0x1⟩
  | .cancel => ⟨1, 0x3, 0x2⟩
  | .reset => ⟨1, 0x3, 0x3⟩
  | .wireDelim => ⟨1, 0xFF, 0x7E⟩
  | .wireEsc => ⟨1, 0xFF, 0x7D⟩
  | .wireData _ => ⟨1, 0, 0⟩
  | .hdrReply _ _ _ _ => ⟨3, 0x1, 0x1⟩
  | .hdrPeerSync _ _ _ _ => ⟨3, 0x9, 0x8⟩
  | .hdrPeerNosync _ _ _ _ => ⟨3, 0x9, 0x0⟩
  | .hdrCommandOut _ _ _ _ => ⟨3, 0xF5, 0⟩
  | .hdrAckOut _ _ => ⟨3, 0xFFFD, 1⟩
  | .crcStep _ _ => ⟨1, 0, 0⟩
  | .rxOpen => ⟨1, 0xFF, 0x7E⟩
  | .rxAdd _ => ⟨1, 0, 0⟩
  | .rxAbort _ => ⟨1, 0, 0⟩
  | .rxClose => ⟨1, 0xFF, 0x7E⟩
  | .txOpen => ⟨1, 0xFF, 0x7E⟩
  | .txWrite _ => ⟨1, 0, 0⟩
  | .txClose => ⟨1, 0xFF, 0x7E⟩
  | .sendCommand _ _ _ _ _ _ => ⟨3, 0xF5, 0⟩
  | .frameReceived _ => ⟨3, 0, 0⟩
  | .replyPath _ _ _ => ⟨3, 0x1, 0x1⟩
  | .peerPath _ _ _ => ⟨3, 0x1, 0x0⟩
  | .sendAck _ _ => ⟨3, 0xFFFD, 1⟩
  | .replyHandle _ _ _ _ => ⟨1, 0, 0⟩
  | .notifDecode _ _ => ⟨1, 0, 0⟩

/-- The word at the head of a transaction's bytes, as the table numbers its bits (R75). -/
def headWord : Nat → List Byte → BitVec 24
  | 1, a :: _ => a.setWidth 24
  | 3, a :: b :: c :: _ => a ++ b ++ c
  | _, _ => 0

/-- The flags byte of a header word, under a mask of its bits. -/
theorem header_and_flags (a b c m : Byte) :
    (a ++ b ++ c : BitVec 24) &&& m.setWidth 24 = (c &&& m).setWidth 24 := by
  ext k hk
  simp only [BitVec.getElem_and, BitVec.getElem_setWidth, BitVec.getElem_append, BitVec.getLsbD_and]
  by_cases h : k < 8
  · simp [h]
  · have : m.getLsbD k = false := BitVec.getLsbD_of_ge m k (by omega)
    simp [this]

namespace EncodeMatchesTable

/-- The encoding of a well-formed operation has its row's fixed bits. -/
def Statement (i : Instr) : Prop :=
  i.wf Params.tc = true →
    headWord (row i).nbytes (encode Params.tc i).bytes &&& (row i).mask = (row i).value

theorem rxByte (b : Byte) : Statement (.rxByte b) := fun _ => by simp [row, headWord, encode]
theorem invoke (e : Nat) (args : List Value) (dst : Nat) : Statement (.invoke e args dst) := fun _ => by
  simp [row, headWord, encode]
theorem cancel : Statement .cancel := fun _ => rfl
theorem reset : Statement .reset := fun _ => rfl
theorem wireDelim : Statement .wireDelim := fun _ => rfl
theorem wireEsc : Statement .wireEsc := fun _ => rfl
theorem wireData (d : Byte) : Statement (.wireData d) := fun _ => BitVec.and_zero

theorem flags_reply : ∀ f : Byte, f.getLsbD 0 = true → (f &&& 1).setWidth 24 = (1 : BitVec 24) := by decide
theorem flags_sync : ∀ f : Byte, f.getLsbD 0 = false → f.getLsbD 3 = true →
    (f &&& 9).setWidth 24 = (8 : BitVec 24) := by decide
theorem flags_nosync : ∀ f : Byte, f.getLsbD 0 = false → f.getLsbD 3 = false →
    (f &&& 9).setWidth 24 = (0 : BitVec 24) := by decide
theorem flags_peer : ∀ f : Byte, f.getLsbD 0 = false → (f &&& 1).setWidth 24 = (0 : BitVec 24) := by decide
theorem flags_command : ∀ y s : Bit, (commandWordFlags y s &&& 0xF5).setWidth 24 = (0 : BitVec 24) := by decide
theorem flags_replyPath : ∀ x : BitVec 7, (((x.setWidth 8 <<< 1) ||| 1) &&& (1 : Byte)).setWidth 24 = (1 : BitVec 24) := by
  decide
theorem flags_ack : ∀ s : Bit, (ackWordFlags s &&& 0xFD).setWidth 24 = (1 : BitVec 24) := by decide

/-- An acknowledgement's header has zeros in its `length` and in bits 7 to 2. -/
theorem header_ack (c : Byte) (s : Bit) : (c ++ (0 : Byte) ++ ackWordFlags s : BitVec 24) &&& 0xFFFD = 1 := by
  revert c s
  decide

theorem hdrReply (cmd len flags : Byte) (A : List Byte) : Statement (.hdrReply cmd len flags A) := fun h =>
  (header_and_flags cmd len flags 1).trans (flags_reply flags h)

theorem hdrPeerSync (cmd len flags : Byte) (A : List Byte) : Statement (.hdrPeerSync cmd len flags A) := fun h => by
  simp only [Instr.wf, Bool.and_eq_true, Bool.not_eq_true'] at h
  exact (header_and_flags cmd len flags 9).trans (flags_sync flags h.1 h.2)

theorem hdrPeerNosync (cmd len flags : Byte) (A : List Byte) : Statement (.hdrPeerNosync cmd len flags A) :=
  fun h => by
    simp only [Instr.wf, Bool.and_eq_true, Bool.not_eq_true'] at h
    exact (header_and_flags cmd len flags 9).trans (flags_nosync flags h.1 h.2)

theorem hdrCommandOut (cmd len : Byte) (y s : Bit) : Statement (.hdrCommandOut cmd len y s) := fun _ =>
  (header_and_flags cmd len (commandWordFlags y s) 0xF5).trans (flags_command y s)

theorem hdrAckOut (cmd : Byte) (s : Bit) : Statement (.hdrAckOut cmd s) := fun _ => header_ack cmd s

theorem crcStep (c : Crc) (b : Byte) : Statement (.crcStep c b) := fun _ => BitVec.and_zero
theorem rxOpen : Statement .rxOpen := fun _ => rfl
theorem rxAdd (b : Byte) : Statement (.rxAdd b) := fun _ => BitVec.and_zero
theorem rxAbort (d : Byte) : Statement (.rxAbort d) := fun _ => BitVec.and_zero
theorem rxClose : Statement .rxClose := fun _ => rfl
theorem txOpen : Statement .txOpen := fun _ => rfl
theorem txWrite (u : Byte) : Statement (.txWrite u) := fun _ => BitVec.and_zero
theorem txClose : Statement .txClose := fun _ => rfl

theorem sendCommand (cmd : Byte) (y s : Bit) (extraFlags : Byte) (A : List Byte) (e : Nat) :
    Statement (.sendCommand cmd y s extraFlags A e) := fun _ =>
  (header_and_flags cmd (BitVec.ofNat 8 A.length) (commandWordFlags y s) 0xF5).trans (flags_command y s)

theorem frameReceived (P : List Byte) : Statement (.frameReceived P) := fun _ => BitVec.and_zero

theorem replyPath (cmd : Byte) (x : BitVec 7) (A : List Byte) : Statement (.replyPath cmd x A) := fun _ =>
  (header_and_flags cmd (BitVec.ofNat 8 A.length) _ 1).trans (flags_replyPath x)

theorem peerPath (cmd flags : Byte) (A : List Byte) : Statement (.peerPath cmd flags A) := fun h => by
  simp only [Instr.wf, Bool.and_eq_true, Bool.not_eq_true'] at h
  exact (header_and_flags cmd (BitVec.ofNat 8 A.length) flags 1).trans (flags_peer flags h.1)

theorem sendAck (cmd : Byte) (s : Bit) : Statement (.sendAck cmd s) := fun _ => header_ack cmd s
theorem replyHandle (e : Nat) (cmd rc : Byte) (R : List Byte) : Statement (.replyHandle e cmd rc R) :=
  fun _ => BitVec.and_zero
theorem notifDecode (cmd : Byte) (A : List Byte) : Statement (.notifDecode cmd A) := fun _ => BitVec.and_zero

end EncodeMatchesTable

end Sys2Proof.Laws
end

