-- ==== Sys2Proof/Laws/Request.lean ====
section
/-! SUPPORT. REQ_WF as the meanings check it is REQ_WF as the statements write it out (R172): the request payload,
the record's shape, the record's typing. -/

namespace Sys2Proof.Machine

/-- An argument's bytes are those the rules write out, exactly where it fits its field (R79, R172). -/
theorem requestField_eq_some {f : ReqField} {v : Value} {b : List Byte} :
    requestField f v = some b ↔ argFits f v = true ∧ encArg f v = b := by
  cases f <;> cases v <;> simp [requestField, argFits, encArg, beBytes]

theorem requestFields_eq_some {fs : List ReqField} {vs : List Value} {b : List Byte} :
    requestFields fs vs = some b ↔ argsFit fs vs = true ∧ encArgs fs vs = b := by
  induction fs generalizing vs b with
  | nil => cases vs <;> simp [requestFields, argsFit, encArgs]
  | cons f fs ih =>
    cases vs with
    | nil => simp [requestFields, argsFit]
    | cons v vs =>
      simp only [requestFields, argsFit, encArgs, Option.bind_eq_some_iff, Option.map_eq_some_iff, requestField_eq_some,
        ih, Bool.and_eq_true]
      constructor
      · rintro ⟨_, ⟨hv, rfl⟩, _, ⟨hvs, rfl⟩, rfl⟩
        exact ⟨⟨hv, hvs⟩, rfl⟩
      · rintro ⟨⟨hv, hvs⟩, rfl⟩
        exact ⟨_, ⟨hv, rfl⟩, _, ⟨hvs, rfl⟩, rfl⟩

/-- The payload that INVOKE encodes is the one R79 and R172 write out. -/
theorem requestPayload_eq_some {C : CmdEntry} {args : List Value} {A : List Byte} :
    requestPayload C args = some A ↔ argsFit C.req args = true ∧ encodeRequest C args = A := by
  simp only [requestPayload, Option.map_eq_some_iff, requestFields_eq_some, encodeRequest]
  constructor
  · rintro ⟨_, ⟨h, rfl⟩, rfl⟩
    exact ⟨h, by split <;> simp⟩
  · rintro ⟨h, rfl⟩
    exact ⟨_, ⟨h, rfl⟩, by split <;> simp⟩

theorem Record.hasShape_iff {r : Record} {rep : List Field} : r.HasShape rep ↔ r.fits rep = true :=
  Record.fits_iff.symm

/-- R172: what INVOKE checks is what REQ_WF asks. -/
theorem reqWellFormed_iff {p : Params} {l : Link} {e dst : Nat} {args : List Value} :
    ReqWellFormed p l e dst args ↔ ∃ C, p.cat[e]? = some C ∧ reqWf C args (findReply l.replies dst) = true := by
  constructor
  · rintro ⟨C, A, r, hC, hA, hlen, hr, hshape⟩
    obtain ⟨hfit, rfl⟩ := requestPayload_eq_some.mp hA
    exact ⟨C, hC, by simp [reqWf, hfit, hlen, hr, Record.hasShape_iff.mp hshape]⟩
  · rintro ⟨C, hC, hwf⟩
    simp only [reqWf, Bool.and_eq_true, decide_eq_true_eq] at hwf
    cases hr : findReply l.replies dst with
    | none => simp [hr] at hwf
    | some r =>
      simp only [hr] at hwf
      exact ⟨C, _, r, hC, requestPayload_eq_some.mpr ⟨hwf.1.1, rfl⟩, hwf.1.2, hr, Record.hasShape_iff.mpr hwf.2⟩

/-- R52: a typed record is one that a host write stores. -/
theorem Record.typed_iff {r : Record} : r.Typed ↔ r.ok = true := by
  simp only [Record.Typed, Record.ok, Bool.and_eq_true, decide_eq_true_eq, List.all_eq_true]
  refine and_congr_right fun _ => forall_congr' fun g => forall_congr' fun _ => ?_
  simp only [ReplyField.ok]
  cases g.val with
  | none => simp
  | some v =>
    simp only [Option.some.injEq, forall_eq']
    cases hk : g.kind <;> cases v <;> simp [typedValue]

end Sys2Proof.Machine
end

