-- ==== Sys2Proof/Laws/Step.lean ====
section
/-! SUPPORT. What one step can do, said once: the addressed link, and what no operation touches. -/

namespace Sys2Proof.Machine

/-- An operation lifted from the link changes the addressed link only. -/
theorem State.lift_frame {s t : State} {o : LinkOut} (h : s.lift o = .next t) :
    t.cfg = s.cfg ∧ t.before = s.before ∧ t.after = s.after ∧ t.draws = s.draws ∧ t.script = s.script := by
  obtain ⟨l, _, rfl⟩ := State.lift_eq_next h
  exact ⟨rfl, rfl, rfl, rfl, rfl⟩

/-- No operation writes the configuration, the script, or a link that is not addressed (R35, R67). -/
theorem exec_frame {s t : State} {i : Instr} (h : exec i s = .next t) :
    t.cfg = s.cfg ∧ t.before = s.before ∧ t.after = s.after ∧ t.script = s.script := by
  have lf : ∀ {o}, s.lift o = .next t → t.cfg = s.cfg ∧ t.before = s.before ∧ t.after = s.after ∧ t.script = s.script :=
    fun h => ⟨(State.lift_frame h).1, (State.lift_frame h).2.1, (State.lift_frame h).2.2.1, (State.lift_frame h).2.2.2.2⟩
  have nf : ∀ {l}, (.next (s.setLink l) : Host.Outcome State Fault Refusal) = .next t →
      t.cfg = s.cfg ∧ t.before = s.before ∧ t.after = s.after ∧ t.script = s.script := fun h => by
    cases h
    exact ⟨rfl, rfl, rfl, rfl⟩
  cases i with
  | rxByte b => exact lf h
  | invoke e args dst => exact lf h
  | cancel => exact nf h
  | reset =>
    cases h
    exact ⟨rfl, rfl, rfl, rfl⟩
  | wireDelim => exact lf h
  | wireEsc => exact lf h
  | wireData d => exact lf h
  | hdrReply cmd len flags A => exact lf h
  | hdrPeerSync cmd len flags A => exact lf h
  | hdrPeerNosync cmd len flags A => exact lf h
  | hdrCommandOut cmd len y q => exact nf h
  | hdrAckOut cmd q => exact nf h
  | crcStep c b => exact nf h
  | rxOpen => exact nf h
  | rxAdd b => exact nf h
  | rxAbort d => exact nf h
  | rxClose => exact lf h
  | txOpen => exact nf h
  | txWrite u => exact nf h
  | txClose => exact nf h
  | sendCommand cmd y q extra A e => exact lf h
  | frameReceived P => exact lf h
  | replyPath cmd x A => exact lf h
  | peerPath cmd flags A => exact nf h
  | sendAck cmd q => exact nf h
  | replyHandle e cmd rc R => exact lf h
  | notifDecode cmd A => exact nf h

/-- The machine that addresses link `k`, with the script's first item taken off. -/
def State.atLink (s : State) (k : Nat) (l : Link) (rest : List Item) : State :=
  { s with before := s.links.take k, link := l, after := s.links.drop (k + 1), script := rest }

/-- Addressing a link changes no link. -/
theorem State.atLink_links {s : State} {k : Nat} {l : Link} (h : s.links[k]? = some l) (rest : List Item) :
    (s.atLink k l rest).links = s.links := by
  obtain ⟨hk, rfl⟩ := List.getElem?_eq_some_iff.mp h
  show s.links.take k ++ s.links[k] :: s.links.drop (k + 1) = s.links
  rw [← List.drop_eq_getElem_cons hk, List.take_append_drop]

/-- A step runs the script's first item on the machine that addresses its link. -/
theorem step_eq {s : State} {it : Item} {rest : List Item} {l : Link} (hs : s.script = it :: rest)
    (hl : s.links[it.inst]? = some l) : step s = runItem it.act (s.atLink it.inst l rest) := by
  obtain ⟨hk, rfl⟩ := List.getElem?_eq_some_iff.mp hl
  have hd : State.links { s with script := rest } = s.links := rfl
  simp only [step, State.fetch, hs, State.focus, hd, List.drop_eq_getElem_cons hk]
  rfl

/-- Where a step answers a next state there was an item, it addressed a link, and running it answered that state. -/
theorem step_cases {s t : State} (h : step s = .next t) :
    ∃ it rest l, s.script = it :: rest ∧ s.links[it.inst]? = some l ∧
      runItem it.act (s.atLink it.inst l rest) = .next t := by
  cases hs : s.script with
  | nil => simp [step, State.fetch, hs] at h
  | cons it rest =>
    cases hl : s.links[it.inst]? with
    | none =>
      have hd : State.links { s with script := rest } = s.links := rfl
      have hn : s.links.drop it.inst = [] := List.drop_eq_nil_of_le (List.getElem?_eq_none_iff.mp hl)
      simp [step, State.fetch, hs, State.focus, hd, hn] at h
    | some l => exact ⟨it, rest, l, rfl, hl, by rwa [step_eq hs hl] at h⟩

/-- Running an item changes the addressed link only. -/
theorem runItem_frame {a : Act} {s t : State} (h : runItem a s = .next t) :
    t.cfg = s.cfg ∧ t.before = s.before ∧ t.after = s.after ∧ t.script = s.script := by
  cases a with
  | host a => exact ⟨(State.lift_frame h).1, (State.lift_frame h).2.1, (State.lift_frame h).2.2.1,
      (State.lift_frame h).2.2.2.2⟩
  | txn x =>
    simp only [runItem] at h
    split at h
    · exact exec_frame h
    · cases h

end Sys2Proof.Machine
end

