-- ==== Sys2Proof/Tests/Slice0.lean ====
section
/-! SUPPORT. Tests: refused ill-formed terms, words written out from the spec's encodings, one step per operation with
the numbers of 95_test_vectors.md, and a witness for every statement that has hypotheses. -/

namespace Sys2Proof.Tests

open Sys2Proof Sys2Proof.Machine

/-! ### Helpers -/

/-- The link after reset with `rxSeq` drawn as `q` ("reset, draw q" of 95_test_vectors.md). -/
def linkQ (q : Bit) : Link := Link.reset 128 q tcReplies

/-- TC with one addressed link. -/
def at' (l : Link) : State := { State.reset with link := l }

/-- After `invoke` of entry `e` on the reset link (vectors E1, E3, E4), the output cleared. -/
def pending (e : Nat) (cmd sub : Byte) : Link :=
  { linkQ 0 with txFirst := false, txSeq := 1, regValid := true, regCmdId := cmd, regEntry := e,
                 busy := true, slotCmdId := cmd, slotEntry := e, slotSubId := sub, slotDst := e }

/-- JOIN is pending (after E1). -/
def joinPending : Link := pending 0 0x31 0
/-- GETP is pending (after E3). -/
def getpPending : Link := pending 1 0x32 0x08
/-- SEND is pending (after E4). -/
def sendPending : Link := pending 2 0x33 0

/-- A frame in progress: the unescaped bytes received so far and their CRC. -/
def receiving (q : Bit) (bs : List Byte) (crc : Crc) : Link :=
  { linkQ q with rxState := .receiving, rxBuf := bs ++ List.replicate (128 - bs.length) 0, rxFill := bs.length,
                 rxCrc := crc }

/-- The link of a next state. -/
def linkOf : Host.Outcome State Fault Refusal → Option Link
  | .next s => some s.link
  | .fault _ => none
  | .refused _ => none

/-- The outcome is a next state. -/
def goesOn (o : Host.Outcome State Fault Refusal) : Bool := (linkOf o).isSome

theorem goesOn_iff {o : Host.Outcome State Fault Refusal} (h : goesOn o = true) : ∃ t, o = .next t := by
  cases o with
  | next s => exact ⟨s, rfl⟩
  | fault r => exact absurd h Bool.false_ne_true
  | refused r => exact absurd h Bool.false_ne_true

/-- What `f` reads from the next state of `i` on the link `l`. -/
def after {α : Type} (f : Link → α) (i : Instr) (l : Link) : Option α := (linkOf (exec i (at' l))).map f

/-- The bytes and flushes as sent on TX. -/
def sent (bs : List Byte) : List TxOut := bs.map TxOut.byte

/-! ### WellFormed refuses ill-formed terms -/

theorem test_wf_wireData_delim : (Instr.wireData 0x7E).wf Params.tc = false := by decide
theorem test_wf_wireData_esc : (Instr.wireData 0x7D).wf Params.tc = false := by decide
theorem test_wf_hdrReply : (Instr.hdrReply 0x31 0 0x02 []).wf Params.tc = false := by decide
theorem test_wf_hdrPeerSync_response : (Instr.hdrPeerSync 0x41 0 0x09 []).wf Params.tc = false := by decide
theorem test_wf_hdrPeerSync_nosync : (Instr.hdrPeerSync 0x41 0 0x02 []).wf Params.tc = false := by decide
theorem test_wf_hdrPeerNosync_response : (Instr.hdrPeerNosync 0x41 0 0x01 []).wf Params.tc = false := by decide
theorem test_wf_hdrPeerNosync_sync : (Instr.hdrPeerNosync 0x41 0 0x08 []).wf Params.tc = false := by decide
theorem test_wf_rxAdd : (Instr.rxAdd 0x7E).wf Params.tc = false := by decide
theorem test_wf_sendCommand_entry : (Instr.sendCommand 0x31 1 0 0 [] 3).wf Params.tc = false := by decide
theorem test_wf_sendCommand_payload :
    (Instr.sendCommand 0x31 1 0 0 (List.replicate 256 0) 0).wf Params.tc = false := by decide +kernel
theorem test_wf_frameReceived_empty : (Instr.frameReceived []).wf Params.tc = false := by decide
theorem test_wf_frameReceived_long :
    (Instr.frameReceived (List.replicate 127 0)).wf Params.tc = false := by decide +kernel
theorem test_wf_replyPath :
    (Instr.replyPath 0x31 0 (List.replicate 256 0)).wf Params.tc = false := by decide +kernel
theorem test_wf_peerPath_response : (Instr.peerPath 0x41 0x01 []).wf Params.tc = false := by decide
theorem test_wf_peerPath_payload :
    (Instr.peerPath 0x41 0 (List.replicate 256 0)).wf Params.tc = false := by decide +kernel
theorem test_wf_replyHandle_entry : (Instr.replyHandle 3 0x31 0 []).wf Params.tc = false := by decide
theorem test_wf_replyHandle_reply :
    (Instr.replyHandle 0 0x31 0 (List.replicate 255 0)).wf Params.tc = false := by decide +kernel
theorem test_wf_notifDecode_empty : (Instr.notifDecode 0x41 []).wf Params.tc = false := by decide
theorem test_wf_notifDecode_long :
    (Instr.notifDecode 0x41 (List.replicate 256 0)).wf Params.tc = false := by decide +kernel

/-! ### R7: configurations that are refused -/

theorem test_config_reserved_bytes_equal : ({ Params.tc with esc := 0x7E } : Params).ok = false := by decide +kernel
theorem test_config_mask_zero : ({ Params.tc with mask := 0 } : Params).ok = false := by decide +kernel
theorem test_config_mask_swaps : ({ Params.tc with mask := 0x03 } : Params).ok = false := by decide +kernel
theorem test_config_good : ({ Params.tc with good := 0xF0B9 } : Params).ok = false := by decide +kernel
theorem test_config_rxCap_small : ({ Params.tc with rxCap := 5 } : Params).ok = false := by decide +kernel
theorem test_config_rxCap_large : ({ Params.tc with rxCap := 261 } : Params).ok = false := by decide +kernel
theorem test_config_reply_field_outside :
    ({ Params.tc with cat := [{ tcGetp with minReply := 6 }] } : Params).ok = false := by decide +kernel
theorem test_config_request_too_long :
    ({ Params.tc with cat := [{ tcSend with req := [.int 2, .rawVar 254] }] } : Params).ok = false := by decide +kernel
theorem test_config_rawVar_not_last :
    ({ Params.tc with cat := [{ tcSend with req := [.rawVar 2, .int 2] }] } : Params).ok = false := by decide +kernel
theorem test_config_duplicate_notif :
    ({ Params.tc with ncat := [tcTime, tcTime] } : Params).ok = false := by decide +kernel

/-! ### Words written out from the encodings of 30_encoding.md and the opcode table -/

theorem test_decode_rxByte : decode Params.tc ⟨.host, [0b00, 0x31], .none⟩ = .op (.rxByte 0x31) := by decide
theorem test_decode_invoke :
    decode Params.tc ⟨.host, [0b01], .invoke 2 [.int 7, .raw [1]] 2⟩ = .op (.invoke 2 [.int 7, .raw [1]] 2) := by decide
theorem test_decode_cancel : decode Params.tc ⟨.host, [0b10], .none⟩ = .op .cancel := by decide
theorem test_decode_reset : decode Params.tc ⟨.host, [0b11], .none⟩ = .op .reset := by decide
theorem test_decode_wireDelim : decode Params.tc ⟨.wire, [0b01111110], .none⟩ = .op .wireDelim := by decide
theorem test_decode_wireEsc : decode Params.tc ⟨.wire, [0b01111101], .none⟩ = .op .wireEsc := by decide
theorem test_decode_wireData : decode Params.tc ⟨.wire, [0b01111111], .none⟩ = .op (.wireData 0x7F) := by decide
/-- T10's reply header `31 01 0B`, with its payload. -/
theorem test_decode_hdrReply :
    decode Params.tc ⟨.hdrIn, [0x31, 0x01, 0b00001011, 0x00], .none⟩ = .op (.hdrReply 0x31 1 0x0B [0]) := by decide
/-- P4's header `41 04 08`. -/
theorem test_decode_hdrPeerSync :
    decode Params.tc ⟨.hdrIn, [0x41, 0x00, 0b00001000], .none⟩ = .op (.hdrPeerSync 0x41 0 0x08 []) := by decide
/-- T11's header `42 00 00`. -/
theorem test_decode_hdrPeerNosync :
    decode Params.tc ⟨.hdrIn, [0x42, 0x00, 0b00000000], .none⟩ = .op (.hdrPeerNosync 0x42 0 0 []) := by decide
/-- T1's header `31 00 08`: SYNC 1, SEQUENCE 0. -/
theorem test_decode_hdrCommandOut :
    decode Params.tc ⟨.hdrOut, [0x31, 0x00, 0b00001000], .none⟩ = .op (.hdrCommandOut 0x31 0 1 0) := by decide
/-- T13's acknowledgement header `41 00 03`: SEQUENCE 1. -/
theorem test_decode_hdrAckOut :
    decode Params.tc ⟨.hdrOut, [0x41, 0x00, 0b00000011], .none⟩ = .op (.hdrAckOut 0x41 1) := by decide
theorem test_decode_crcStep :
    decode Params.tc ⟨.crcStep, [0x31], .crc 0xFFFF⟩ = .op (.crcStep 0xFFFF 0x31) := by decide
theorem test_decode_rxOpen : decode Params.tc ⟨.rxOpen, [0b01111110], .none⟩ = .op .rxOpen := by decide
theorem test_decode_rxAdd : decode Params.tc ⟨.rxAdd, [0b01111101], .none⟩ = .op (.rxAdd 0x7D) := by decide
theorem test_decode_rxAbort : decode Params.tc ⟨.rxAbort, [0x6D], .none⟩ = .op (.rxAbort 0x6D) := by decide
theorem test_decode_rxClose : decode Params.tc ⟨.rxClose, [0b01111110], .none⟩ = .op .rxClose := by decide
theorem test_decode_txOpen : decode Params.tc ⟨.txOpen, [0b01111110], .none⟩ = .op .txOpen := by decide
theorem test_decode_txWrite : decode Params.tc ⟨.txWrite, [0x5E], .none⟩ = .op (.txWrite 0x5E) := by decide
theorem test_decode_txClose : decode Params.tc ⟨.txClose, [0b01111110], .none⟩ = .op .txClose := by decide
/-- P2 step 6: header `32 01 02` (SYNC 0, SEQUENCE 1), payload `08`, entry GETP. -/
theorem test_decode_sendCommand :
    decode Params.tc ⟨.sendCommand, [0x32, 0x01, 0b00000010, 0x08], .send 0 1⟩ =
      .op (.sendCommand 0x32 0 1 0 [0x08] 1) := by decide
theorem test_decode_frameReceived :
    decode Params.tc ⟨.frameReceived, [0x41, 0x02], .none⟩ = .op (.frameReceived [0x41, 0x02]) := by decide
theorem test_decode_replyPath :
    decode Params.tc ⟨.replyPath, [0x31, 0x01, 0b10001011, 0x00], .none⟩ = .op (.replyPath 0x31 0b1000101 [0]) := by
  decide
theorem test_decode_peerPath :
    decode Params.tc ⟨.peerPath, [0x42, 0x01, 0b11111110, 0xAA], .none⟩ = .op (.peerPath 0x42 0xFE [0xAA]) := by decide
theorem test_decode_sendAck :
    decode Params.tc ⟨.sendAck, [0x41, 0x00, 0b00000001], .none⟩ = .op (.sendAck 0x41 0) := by decide
theorem test_decode_replyHandle :
    decode Params.tc ⟨.replyHandle, [0x05, 0x08], .reply 1 0x32⟩ = .op (.replyHandle 1 0x32 5 [0x08]) := by decide
theorem test_decode_notifDecode :
    decode Params.tc ⟨.notifDecode, [0x55, 0xAA], .none⟩ = .op (.notifDecode 0x55 [0xAA]) := by decide

theorem test_reject_hostOp : decode Params.tc ⟨.host, [4], .none⟩ = .reject .hostOp := by decide
theorem test_reject_no_operand : decode Params.tc ⟨.host, [0], .none⟩ = .reject .byteCount := by decide
theorem test_reject_operands : decode Params.tc ⟨.host, [1], .none⟩ = .reject .operands := by decide
theorem test_reject_notDelimiter : decode Params.tc ⟨.txOpen, [0x7D], .none⟩ = .reject .notDelimiter := by decide
theorem test_reject_delimiter : decode Params.tc ⟨.rxAdd, [0x7E], .none⟩ = .reject .delimiter := by decide
theorem test_reject_flagBits : decode Params.tc ⟨.hdrOut, [0x31, 0, 4], .none⟩ = .reject .flagBits := by decide
theorem test_reject_ack_length : decode Params.tc ⟨.sendAck, [0x31, 1, 1], .none⟩ = .reject .length := by decide
theorem test_reject_length : decode Params.tc ⟨.replyPath, [0x31, 2, 1, 0], .none⟩ = .reject .length := by decide
theorem test_reject_payload : decode Params.tc ⟨.notifDecode, [0x41], .none⟩ = .reject .payload := by decide
theorem test_reject_entry : decode Params.tc ⟨.sendCommand, [0x31, 0, 8], .send 0 3⟩ = .reject .entry := by decide

/-! ### CRC (vectors K1 to K7) and the default table (R101) -/

/-- Eight shifts with the reflected polynomial 0x8408 (R101). -/
def tableGen (i : Nat) : Crc :=
  (List.range 8).foldl (fun c _ => if c.getLsbD 0 then (c >>> 1) ^^^ 0x8408 else c >>> 1) (BitVec.ofNat 16 i)

theorem test_default_table : defaultTable = (List.range 256).map tableGen := by decide +kernel
/-- K2 to K7. -/
theorem test_crc_vectors :
    crcFold Params.tc 0xFFFF [0x31, 0x00, 0x08] = 0x6909 ∧
    crcFold Params.tc 0xFFFF [0x31, 0x32, 0x33, 0x34, 0x35, 0x36, 0x37, 0x38, 0x39] = ~~~ 0x906E ∧
    crcFold Params.tc 0xFFFF [0x31, 0x00, 0x08, 0xF6, 0x96] = 0xF0B8 ∧
    crcFold Params.tc 0xFFFF [0x00, 0x00] = 0xF0B8 ∧
    crcFold Params.tc 0xFFFF [0x41, 0x42, 0x43] = 0x60D0 := by decide +kernel
/-- S1's wire bytes of `7E 7D 5E 5D 20`. -/
theorem test_frame_reserved_bytes :
    frameBytes Params.tc [0x7E, 0x7D, 0x5E, 0x5D, 0x20] =
      [0x7E, 0x7D, 0x5E, 0x7D, 0x5D, 0x5E, 0x5D, 0x20, 0x83, 0xBB, 0x7E] := by decide +kernel
/-- K1. -/
theorem test_crcStep : after Link.crcOut (.crcStep 0xFFFF 0x31) (linkQ 0) = some 0x2F8D := by decide +kernel

/-! ### Link Framer -/

/-- The first stored byte after the opening delimiter: 0x41 (RX11 before its ESC: `rxCrc = 0x5C0A`). -/
theorem test_rxByte_opens :
    after (fun l => (l.rxState, l.rxFill, l.rxCrc, l.rxLastDelim)) (.rxByte 0x41) { linkQ 0 with rxLastDelim := true } =
      some (.receiving, 1, 0x5C0A, false) := by decide +kernel
/-- RX1: no opening delimiter. -/
theorem test_rxByte_ignored :
    after (fun l => (l.rxState, l.rxFill)) (.rxByte 0x41) (linkQ 0) = some (.idle, 0) := by decide +kernel
/-- RX12 then the delimiter: `31 00 08` has RESPONSE 0 and SYNC 1, so it is acknowledged as T-vector headers are. -/
theorem test_wireDelim_closes :
    after (fun l => (l.rxState, l.rxLastDelim, l.rxSeq, l.txCrc)) .wireDelim
      (receiving 1 [0x31, 0x00, 0x08, 0xF6, 0x96] 0xF0B8) = some (.idle, true, 0, 0xF0B8) := by decide +kernel
/-- RX11: ESC while receiving. -/
theorem test_wireEsc :
    after (fun l => (l.rxEsc, l.rxFill, l.rxCrc)) .wireEsc (receiving 0 [0x41] 0x5C0A) =
      some (true, 1, 0x5C0A) := by decide +kernel
/-- RX10: any byte after ESC is XORed with MASK (0x61 gives 0x41). -/
theorem test_wireData_unescapes :
    after (fun l => (l.rxBuf.take 1, l.rxFill, l.rxCrc, l.rxEsc)) (.wireData 0x61)
      { receiving 0 [] 0xFFFF with rxEsc := true } = some ([0x41], 1, 0x5C0A, false) := by decide +kernel
/-- R104. -/
theorem test_rxOpen :
    after (fun l => (l.rxState, l.rxFill, l.rxCrc)) .rxOpen (linkQ 0) = some (.receiving, 0, 0xFFFF) := by
  decide +kernel
/-- RX14's ninth byte, on a full buffer: nothing stored, IDLE. -/
theorem test_rxAdd_overflow :
    after (fun l => (l.rxState, l.rxFill, l.discards)) (.rxAdd 0x6D) (receiving 0 (List.replicate 128 1) 0) =
      some (.idle, 0, [.overflow]) := by decide +kernel
/-- RX12's last byte. -/
theorem test_rxAdd_stores :
    after (fun l => (l.rxFill, l.rxCrc)) (.rxAdd 0x96)
      (receiving 0 [0x31, 0x00, 0x08, 0xF6] (crcFold Params.tc 0xFFFF [0x31, 0x00, 0x08, 0xF6])) =
      some (5, 0xF0B8) := by decide +kernel
/-- R106. -/
theorem test_rxAbort :
    after (fun l => (l.rxState, l.rxFill, l.discards)) (.rxAbort 0x6D) (receiving 0 [0x41] 0x5C0A) =
      some (.idle, 0, [.overflow]) := by decide +kernel
/-- RX7: a flipped FCS bit. -/
theorem test_rxClose_crc :
    after (fun l => (l.rxState, l.discards)) .rxClose (receiving 0 [0x41, 0x42, 0x43, 0x2F, 0x9E] 0xE131) =
      some (.idle, [.crc]) := by decide +kernel
/-- RX5: the empty payload. -/
theorem test_rxClose_empty :
    after (fun l => (l.rxState, l.discards)) .rxClose (receiving 0 [0x00, 0x00] 0xF0B8) =
      some (.idle, [.empty]) := by decide +kernel
/-- F1. -/
theorem test_txOpen :
    after (fun l => (l.tx, l.txCrc)) .txOpen (linkQ 0) = some (sent [0x7E], 0xFFFF) := by decide +kernel
/-- F2. -/
theorem test_txWrite_escapes :
    after Link.tx (.txWrite 0x7D) (linkQ 0) = some (sent [0x7D, 0x5D]) := by decide +kernel
/-- F3. -/
theorem test_txWrite_plain : after Link.tx (.txWrite 0x5E) (linkQ 0) = some (sent [0x5E]) := by decide +kernel
/-- F4 and F6: the close of the frame of `2A`. -/
theorem test_txClose :
    after (fun l => (l.tx, l.txCrc)) .txClose { linkQ 0 with txCrc := crcFold Params.tc 0xFFFF [0x2A] } =
      some (sent [0x20, 0x7D, 0x5E, 0x7E] ++ [.flush], 0xF0B8) := by decide +kernel

/-! ### Packet Transport -/

/-- T1's header bytes; no frame is sent, so `txFirst` stays 1 (R28). -/
theorem test_hdrCommandOut :
    after (fun l => (l.tx, l.txFirst)) (.hdrCommandOut 0x31 0 0 1) (linkQ 0) =
      some (sent [0x31, 0x00, 0x08], true) := by decide +kernel
/-- T13's acknowledgement header. -/
theorem test_hdrAckOut :
    after Link.tx (.hdrAckOut 0x41 0) (linkQ 1) = some (sent [0x41, 0x00, 0x03]) := by decide +kernel
/-- T1. -/
theorem test_sendCommand_first :
    after (fun l => (l.tx, l.txFirst, l.txSeq, l.regValid, l.regCmdId)) (.sendCommand 0x31 1 0 0 [] 0) (linkQ 0) =
      some (sent [0x7E, 0x31, 0x00, 0x08, 0xF6, 0x96, 0x7E] ++ [.flush], false, 1, true, 0x31) := by decide +kernel
/-- T2. -/
theorem test_sendCommand_second :
    after (fun l => (l.tx, l.txSeq)) (.sendCommand 0x31 0 1 0 [] 0) { linkQ 0 with txFirst := false, txSeq := 1 } =
      some (sent [0x7E, 0x31, 0x00, 0x02, 0xAC, 0x39, 0x7E] ++ [.flush], 0) := by decide +kernel
/-- T5. -/
theorem test_frameReceived_short :
    after (fun l => (l.tx, l.discards)) (.frameReceived [0x41, 0x02]) (linkQ 0) = some ([], [.short]) := by decide +kernel
/-- T6. -/
theorem test_frameReceived_length :
    after (fun l => (l.tx, l.discards)) (.frameReceived [0x41, 0x05, 0x00, 0x01]) (linkQ 0) =
      some ([], [.length]) := by decide +kernel
/-- T10. -/
theorem test_hdrReply :
    after (fun l => (l.ev, l.busy, l.regValid)) (.hdrReply 0x31 1 0x0B [0]) joinPending =
      some ([.replyReady 0x31], false, false) := by decide +kernel
/-- P4 step 2. -/
theorem test_hdrPeerSync :
    after (fun l => (l.tx, l.ev, l.rxSeq)) (.hdrPeerSync 0x41 4 0x08 [0x65, 0x43, 0x21, 0x00]) (linkQ 0) =
      some (sent [0x7E, 0x41, 0x00, 0x01, 0xEF, 0x8B, 0x7E] ++ [.flush], [.notifReady 0x41 0xFF], 0) := by
  decide +kernel
/-- T11. -/
theorem test_hdrPeerNosync_duplicate :
    after (fun l => (l.tx, l.ev, l.discards)) (.hdrPeerNosync 0x42 0 0 []) (linkQ 0) =
      some (sent [0x7E, 0x42, 0x00, 0x01, 0x8B, 0x64, 0x7E] ++ [.flush], [], [.duplicate]) := by decide +kernel
/-- T12. -/
theorem test_hdrPeerNosync_new :
    after (fun l => (l.rxSeq, l.ev, l.discards)) (.hdrPeerNosync 0x42 0 0 []) (linkQ 1) = some (0, [], []) := by
  decide +kernel
/-- T8. -/
theorem test_replyPath_unexpected :
    after (fun l => (l.ev, l.discards)) (.replyPath 0x31 0 [0]) (linkQ 0) = some ([], [.unexpectedReply]) := by
  decide +kernel
/-- T7. -/
theorem test_replyPath_noRc :
    after (fun l => (l.regValid, l.discards)) (.replyPath 0x31 0 []) joinPending = some (true, [.noRc]) := by
  decide +kernel
/-- T13. -/
theorem test_peerPath :
    after (fun l => (l.tx, l.ev, l.rxSeq)) (.peerPath 0x41 0x02 [0x00, 0x01, 0x02, 0x03]) (linkQ 0) =
      some (sent [0x7E, 0x41, 0x00, 0x03, 0xFD, 0xA8, 0x7E] ++ [.flush], [.notifReady 0x41 0xFF], 1) := by
  decide +kernel
/-- E14: an unknown id is acknowledged all the same. -/
theorem test_peerPath_unknown :
    after (fun l => (l.tx, l.discards)) (.peerPath 0x55 0x02 [0xAA]) (linkQ 0) =
      some (sent [0x7E, 0x55, 0x00, 0x03, 0x09, 0x4E, 0x7E] ++ [.flush], [.unknownNotif]) := by decide +kernel
/-- T15. -/
theorem test_sendAck :
    after (fun l => (l.tx, l.txFirst, l.txSeq)) (.sendAck 0x41 0) (linkQ 1) =
      some (sent [0x7E, 0x41, 0x00, 0x03, 0xFD, 0xA8, 0x7E] ++ [.flush], true, 0) := by decide +kernel

/-! ### Command Engine -/

/-- E4. -/
theorem test_invoke :
    after (fun l => (l.tx, l.statuses, l.busy)) (.invoke 2 [.int 0x7E7D, .raw [0x01, 0x7E]] 2) (linkQ 0) =
      some (sent [0x7E, 0x33, 0x04, 0x08, 0x7D, 0x5E, 0x7D, 0x5D, 0x01, 0x7D, 0x5E, 0x59, 0xB0, 0x7E] ++ [.flush],
        [.ok], true) := by decide +kernel
/-- E2. -/
theorem test_invoke_busy :
    after (fun l => (l.tx, l.statuses, l.slotDst)) (.invoke 1 [] 1) joinPending = some ([], [.busy], 0) := by
  decide +kernel
/-- R179, D32: JOIN into a record of GETP's shape is refused, though the record has all of JOIN's fields (none). -/
theorem test_shape_other_entry : goesOn (exec (.invoke 0 [] 1) (at' (linkQ 0))) = false := by decide +kernel
/-- The order of a record's fields is no part of its shape (entry 15). -/
theorem test_shape_order :
    Record.fits ⟨none, [⟨fieldTag, 4, .raw, none⟩, ⟨fieldValue, 2, .int, none⟩]⟩ tcGetp.rep = true := by decide +kernel
/-- P5 step 2. -/
theorem test_cancel :
    after (fun l => (l.busy, l.regValid)) .cancel joinPending = some (false, true) := by decide +kernel
/-- X1. -/
theorem test_reset :
    after (fun l => (l.rxState, l.rxFill, l.txFirst, l.regValid, l.busy)) .reset
      { joinPending with rxState := .receiving, rxFill := 1 } = some (.idle, 0, true, false, false) := by decide +kernel
/-- P2 step 7. -/
theorem test_replyHandle_decodes :
    after (fun l => (findReply l.replies 1, l.busy)) (.replyHandle 1 0x32 0 [0x08, 0x12, 0x34, 0xDE, 0xAD, 0xBE, 0xEF])
      getpPending = some (some ⟨some 0, [⟨fieldValue, 2, .int, some (.int 0x1234)⟩,
        ⟨fieldTag, 4, .raw, some (.raw [0xDE, 0xAD, 0xBE, 0xEF])⟩]⟩, false) := by decide +kernel
/-- E7. -/
theorem test_replyHandle_failure :
    after (fun l => (findReply l.replies 1, l.ev)) (.replyHandle 1 0x32 5 [0x08]) getpPending =
      some (some ⟨some 5, [⟨fieldValue, 2, .int, none⟩, ⟨fieldTag, 4, .raw, none⟩]⟩, [.replyReady 0x32]) := by
  decide +kernel
/-- E13. -/
theorem test_notifDecode :
    after (fun l => (l.notifRec, l.ev))
      (.notifDecode 0x42 [0x00, 0x01, 0x00, 0x01, 0x02, 0x03, 0x04, 0x05, 0x06, 0x07, 0x08, 0x09, 0x0A, 0x0B, 0x0C])
      (linkQ 0) =
      some (some ⟨[(fieldSrcPort, .int 1)], some ⟨13, [0, 1, 2, 3, 4, 5, 6, 7, 8, 9, 10, 11, 12]⟩⟩,
        [.notifReady 0x42 0xFF]) := by decide +kernel
/-- E12. -/
theorem test_notifDecode_too_long :
    after (fun l => (l.notifRec, l.ev, l.discards)) (.notifDecode 0x42 (0x00 :: 0x01 :: List.replicate 14 0)) (linkQ 1) =
      some (none, [], [.notifBuf]) := by decide +kernel

/-! ### Witnesses: concrete states and operands that meet the hypotheses of each statement -/

theorem witness_DecodeOfEncode :
    (Instr.sendCommand 0x33 1 0 0 (List.replicate 255 0x7E) 2).wf Params.tc = true := by decide +kernel
theorem witness_EncodeOfDecode :
    decode Params.tc ⟨.peerPath, [0x42, 0x01, 0xFE, 0xAA], .none⟩ = .op (.peerPath 0x42 0xFE [0xAA]) := by decide
/-- Each clause: the delimiter, the escape byte, and the bytes just beside them. -/
theorem witness_WireByteClasses :
    (0x7E : Byte) = State.reset.cfg.delim ∧ (0x7D : Byte) = State.reset.cfg.esc ∧
    ((0x7C : Byte) ≠ State.reset.cfg.delim ∧ (0x7C : Byte) ≠ State.reset.cfg.esc) ∧
    ((0x7F : Byte) ≠ State.reset.cfg.delim ∧ (0x7F : Byte) ≠ State.reset.cfg.esc) := by decide +kernel

/-- Two links, the second addressed by the script's one item. -/
def twoLinks (t : Txn) : State :=
  { at' (linkQ 0) with after := [joinPending], script := [⟨1, .txn t⟩] }

theorem witness_StepRunsDecoded :
    (twoLinks ⟨.host, [2], .none⟩).script = ⟨1, .txn ⟨.host, [2], .none⟩⟩ :: [] ∧
    decode (twoLinks ⟨.host, [2], .none⟩).cfg.toParams ⟨.host, [2], .none⟩ = .op .cancel ∧
    (twoLinks ⟨.host, [2], .none⟩).links[1]? = some joinPending := by decide +kernel
theorem witness_StepLeavesOtherLinks :
    (twoLinks ⟨.host, [2], .none⟩).script = ⟨1, .txn ⟨.host, [2], .none⟩⟩ :: [] ∧
    ∃ t, step (twoLinks ⟨.host, [2], .none⟩) = .next t :=
  ⟨rfl, goesOn_iff (by decide +kernel)⟩

/-- One pending command, and a reply's frame as the script's item. -/
def replying : State :=
  { at' joinPending with script := [⟨0, .txn ⟨.frameReceived, [0x31, 0x01, 0x01, 0x00], .none⟩⟩] }

theorem links_at (l : Link) (sc : List Item) : State.links { at' l with script := sc } = [l] := rfl

theorem joinPending_inv : joinPending.inv Params.tc :=
  ⟨⟨fun _ => rfl, by decide, fun _ => rfl⟩, fun _ _ => ⟨rfl, rfl⟩,
    fun _ => ⟨tcJoin, Record.blank tcJoin, rfl, rfl, rfl, by decide +kernel, by decide +kernel⟩, by decide +kernel⟩

theorem witness_EveryStepKeepsStorage : replying.storageInv ∧ ∃ t, step replying = .next t :=
  ⟨⟨fun l h => by
      rw [replying, links_at] at h
      rw [List.mem_singleton.mp h]
      exact joinPending_inv.2.2.2, rfl⟩, goesOn_iff (by decide +kernel)⟩
theorem witness_EveryTransactionKeepsInvariant :
    replying.inv ∧ (∀ it ∈ replying.script.head?, it.act.isInner = false) ∧ ∃ t, step replying = .next t :=
  ⟨⟨fun l h => by
      rw [replying, links_at] at h
      rw [List.mem_singleton.mp h]
      exact joinPending_inv, rfl⟩, by decide, goesOn_iff (by decide +kernel)⟩

/-- Each clause: the escape byte; a full buffer; the last free place, with and without an escape pending. -/
theorem witness_RxAddStoresByte :
    (0x7D : Byte) = Params.tc.esc ∧
    ((0x01 : Byte) ≠ Params.tc.esc ∧ (receiving 0 (List.replicate 128 1) 0).rxFill = Params.tc.rxCap) ∧
    ((0x01 : Byte) ≠ Params.tc.esc ∧ (receiving 0 (List.replicate 127 1) 0).rxFill ≠ Params.tc.rxCap) := by
  decide +kernel
/-- Each clause: a fill of 1, a bad CRC, the empty payload, and a payload of one byte. -/
theorem witness_RxCloseChecksCrc :
    (receiving 0 [0x41] 0x5C0A).rxFill < 2 ∧
    (receiving 0 [0x41, 0x42] 0xE131).rxCrc ≠ Params.tc.good ∧
    ((receiving 0 [0, 0] 0xF0B8).rxFill = 2 ∧ (receiving 0 [0, 0] 0xF0B8).rxCrc = Params.tc.good) ∧
    (2 < (receiving 0 [0, 0x78, 0xF0] 0xF0B8).rxFill ∧
      (receiving 0 [0, 0x78, 0xF0] 0xF0B8).rxCrc = Params.tc.good) := by decide +kernel

/-- The notification frame of T13 received up to its closing delimiter. -/
def closing : Link := receiving 0 [0x41, 0x04, 0x02, 0x00, 0x01, 0x02, 0x03, 0x70, 0x89] 0xF0B8

theorem witness_RxCloseDeliversPeerFrame :
    closing.rxCrc = Params.tc.good ∧ closing.rxFill = [0x00, 0x01, 0x02, (0x03 : Byte)].length + 5 ∧
    closing.rxBuf.take (closing.rxFill - 2) = 0x41 :: 0x04 :: 0x02 :: [0x00, 0x01, 0x02, 0x03] ∧
    [0x00, 0x01, 0x02, (0x03 : Byte)].length = (0x04 : Byte).toNat ∧ (0x02 : Byte).getLsbD 0 = false := by
  decide +kernel
theorem witness_RxByteIgnoredInIdle :
    ((linkQ 0).rxState = .idle ∧ (linkQ 0).rxLastDelim = false) ∧ (0x7E : Byte) = Params.tc.delim := by decide +kernel
/-- Both cases: a data byte and the escape byte after a delimiter. -/
theorem witness_RxByteOpensFrame :
    { linkQ 0 with rxLastDelim := true }.rxState = .idle ∧ { linkQ 0 with rxLastDelim := true }.rxEsc = false ∧
    { linkQ 0 with rxLastDelim := true }.rxLastDelim = true ∧ (0x41 : Byte) ≠ Params.tc.delim ∧
    (0x7D : Byte) ≠ Params.tc.delim := by decide +kernel
/-- The escape byte, an escaped byte, a full buffer and a plain byte. -/
theorem witness_RxByteWhileReceiving :
    ((receiving 0 [] 0xFFFF).rxState = .receiving ∧ (0x7D : Byte) ≠ Params.tc.delim ∧ (0x7D : Byte) = Params.tc.esc) ∧
    ({ receiving 0 [] 0xFFFF with rxEsc := true }.rxState = .receiving ∧ (0x5E : Byte) ≠ Params.tc.delim) ∧
    ((receiving 0 (List.replicate 128 1) 0).rxState = .receiving ∧
      (receiving 0 (List.replicate 128 1) 0).rxFill = Params.tc.rxCap) ∧
    (receiving 0 (List.replicate 127 1) 0).rxFill ≠ Params.tc.rxCap := by decide +kernel

theorem closing_inv : closing.inv Params.tc :=
  ⟨⟨fun h => absurd h (by decide), by decide, fun h => absurd h (by decide)⟩, fun h => absurd h (by decide),
    fun h => absurd h (by decide), by decide +kernel⟩

theorem witness_WireBytesWhileReceiving :
    closing.inv Params.tc ∧ closing.rxState = .receiving ∧
    ((0x7F : Byte) ≠ Params.tc.delim ∧ (0x7F : Byte) ≠ Params.tc.esc ∧ closing.rxFill < Params.tc.rxCap) :=
  ⟨closing_inv, rfl, by decide +kernel⟩
theorem witness_RxByteRecordsDelimiter : ∃ t, exec (.rxByte 0x7E) (at' closing) = .next t :=
  goesOn_iff (by decide +kernel)
/-- TC meets R7. -/
theorem tc_meetsR7 : MeetsR7 Params.tc where
  a := by decide
  b := by decide
  c := by decide
  d := by decide +kernel
  e := by decide
  f := by
    refine ⟨fun C hC => ?_, fun N hN => ?_, by decide⟩
    · fin_cases hC <;> exact ⟨by simp [tcJoin, tcGetp, tcSend], by simp [tcJoin, tcGetp, tcSend],
        by simp [tcJoin, tcGetp, tcSend], by decide, by decide, by decide, by decide, by decide⟩
    · fin_cases hN <;> exact ⟨by decide, by decide, by simp [tcTime, tcData]⟩

/-- SEND with its longest payload is well formed for the record rec2. -/
theorem send_wellFormed :
    Params.tc.cat[2]? = some tcSend ∧
    requestPayload tcSend [.int 0xFF7E, .raw (List.replicate 16 0x7E)] =
      some (0xFF :: 0x7E :: List.replicate 16 0x7E) ∧
    findReply tcReplies 2 = some (Record.blank tcSend) ∧ (Record.blank tcSend).HasShape tcSend.rep :=
  ⟨rfl, by decide +kernel, by decide +kernel, List.Perm.refl _⟩

theorem send_reqWellFormed (l : Link) (h : l.replies = tcReplies) :
    ReqWellFormed Params.tc l 2 2 [.int 0xFF7E, .raw (List.replicate 16 0x7E)] :=
  ⟨tcSend, _, _, send_wellFormed.1, send_wellFormed.2.1, by decide, h ▸ send_wellFormed.2.2.1, send_wellFormed.2.2.2⟩

/-- JOIN into the record of GETP's shape is misuse (R179), and so is an argument too many. -/
theorem join_misused :
    ¬ ReqWellFormed Params.tc (linkQ 0) 0 1 [] ∧ ¬ ReqWellFormed Params.tc (linkQ 0) 0 0 [.int 3] := by
  refine ⟨?_, ?_⟩
  · rintro ⟨C, A, r, hC, -, -, hr, hs⟩
    obtain rfl : tcJoin = C := Option.some.inj hC
    obtain rfl : Record.blank tcGetp = r := Option.some.inj ((by decide +kernel :
      findReply (linkQ 0).replies 1 = some (Record.blank tcGetp)).symm.trans hr)
    exact absurd hs.length_eq (by decide)
  · rintro ⟨C, A, r, hC, hA, -⟩
    obtain rfl : tcJoin = C := Option.some.inj hC
    exact absurd hA (by simp [requestPayload, requestFields, tcJoin])

/-- Each clause: misuse, a well-formed INVOKE, the invariant, and a tuple that meets R7. -/
theorem witness_OnlyMisuseIsRefused :
    ¬ ReqWellFormed (at' (linkQ 0)).cfg.toParams (at' (linkQ 0)).link 0 1 [] ∧
    ReqWellFormed (at' (linkQ 0)).cfg.toParams (at' (linkQ 0)).link 2 2 [.int 0xFF7E, .raw (List.replicate 16 0x7E)] ∧
    joinPending.inv Params.tc ∧
    (MeetsR7 Params.tc ∧ Params.tc.table.length = 256 ∧ Params.tc.rcOk = 0x00 ∧ 1 ≤ Params.tc.nInst) :=
  ⟨join_misused.1, send_reqWellFormed _ rfl, joinPending_inv, tc_meetsR7, by decide +kernel, by decide, by decide⟩
/-- From IDLE, and while a frame is being received; a payload of one byte and the longest one. -/
theorem witness_FramingRoundTrip :
    ((linkQ 0).rxState = .idle → (linkQ 0).rxEsc = false) ∧ (linkQ 0).rxBuf.length = Params.tc.rxCap ∧
    (∃ t, exec (.rxByte 0x7E) (at' (linkQ 0)) = .next t) ∧
    (closing.rxState = .idle → closing.rxEsc = false) ∧ closing.rxBuf.length = Params.tc.rxCap ∧
    (∃ t, exec (.rxByte 0x7E) (at' closing) = .next t) ∧
    (1 ≤ [(0x7E : Byte)].length ∧ (List.replicate 126 (0x7D : Byte)).length ≤ Params.tc.rxCap - 2) :=
  ⟨fun _ => rfl, by decide +kernel, goesOn_iff (by decide +kernel), fun h => absurd h (by decide), by decide +kernel,
    goesOn_iff (by decide +kernel), by decide +kernel⟩
/-- The first frame, and a later one with sequence bit 1. -/
theorem witness_CommandHeaderGoesOut :
    ((0 : Bit) = (if (linkQ 0).txFirst then 0 else (linkQ 0).txSeq) ∧ (1 : Bit) = (if (linkQ 0).txFirst then 1 else 0)) ∧
    (1 : Bit) = (if joinPending.txFirst then 0 else joinPending.txSeq) ∧
      (0 : Bit) = (if joinPending.txFirst then 1 else 0) := by decide +kernel
theorem witness_SendCommandSendsFrame :
    2 < Params.tc.cat.length ∧ (List.replicate 255 (0x7E : Byte)).length ≤ 255 := by decide +kernel
/-- Each clause: the first index past CAT, 256 bytes; a pending command whose record is missing, and a successful reply
to one whose record has no fields. -/
theorem witness_OperandsOutOfRangeStop :
    (Params.tc.cat.length ≤ 3 ∧ 255 < (List.replicate 256 (0x7E : Byte)).length) ∧
    (getpPending.busy = true ∧ getpPending.slotCmdId = 0x32 ∧ Params.tc.cat[1]? = some tcGetp ∧
      (tcGetp.param = true → [0x08, 0x12, 0x34, 0xDE, 0xAD, 0xBE, (0xEF : Byte)].head? = some getpPending.slotSubId) ∧
      ((0 : Byte) = Params.tc.rcOk →
        tcGetp.minReply ≤ [0x08, 0x12, 0x34, 0xDE, 0xAD, 0xBE, (0xEF : Byte)].length)) ∧
    findReply { getpPending with replies := [] }.replies getpPending.slotDst = none ∧
    ((0 : Byte) = Params.tc.rcOk ∧
      findReply { getpPending with slotDst := 0 }.replies 0 = some (Record.blank tcJoin) ∧
      ∃ f ∈ tcGetp.rep, fieldShape f ∉ (Record.blank tcJoin).shape) :=
  ⟨by decide +kernel, by decide +kernel, rfl, rfl, by decide +kernel, by decide +kernel⟩
theorem witness_OnlySendCommandWritesTxSeq :
    (∃ t, exec (.sendAck 0x41 0) (at' joinPending) = .next t) ∧
    (∀ e args dst, Instr.sendAck 0x41 0 ≠ .invoke e args dst) ∧
    (∀ cmd y q x A e, Instr.sendAck 0x41 0 ≠ .sendCommand cmd y q x A e) ∧ Instr.sendAck 0x41 0 ≠ .reset :=
  ⟨goesOn_iff (by decide +kernel), nofun, nofun, nofun⟩
/-- Each clause: two bytes; a `length` one too great; a reply frame and a peer frame with the longest payload. -/
theorem witness_FrameReceivedRoutes :
    [0x41, (0x02 : Byte)].length < 3 ∧ [(0x01 : Byte)].length ≠ (0x02 : Byte).toNat ∧
    ((List.replicate 255 (0x01 : Byte)).length = (0xFF : Byte).toNat ∧ (0x0B : Byte).getLsbD 0 = true) ∧
    (0xFE : Byte).getLsbD 0 = false := by decide +kernel
theorem witness_DuplicateIsOnlyAcknowledged :
    ([] : List Byte).length = (0x00 : Byte).toNat ∧ (0x00 : Byte).getLsbD 0 = false ∧
    (0x00 : Byte).getLsbD 3 = false ∧ (0x00 : Byte).extractLsb' 1 1 = (linkQ 0).rxSeq ∧
    ∃ t, t = (at' (linkQ 0)).setLink { linkQ 0 with
      txCrc := Params.tc.good, discards := (linkQ 0).discards ++ [.duplicate]
      tx := (linkQ 0).tx ++ frameOut Params.tc (ackPayload 0x42 (linkQ 0).rxSeq) } :=
  ⟨by decide, by decide, by decide, by decide, _, rfl⟩
/-- SYNC with the same sequence bit; another sequence bit with no SYNC; an empty payload and one of four bytes. -/
theorem witness_NewPeerFrameIsForwarded :
    ([] : List Byte).length = (0x00 : Byte).toNat ∧ [0x00, 0x01, 0x02, (0x03 : Byte)].length = (0x04 : Byte).toNat ∧
    ((0x08 : Byte).getLsbD 0 = false ∧ (0x08 : Byte).getLsbD 3 = true ∧
      (0x08 : Byte).extractLsb' 1 1 = (linkQ 0).rxSeq) ∧
    ((0x02 : Byte).getLsbD 0 = false ∧ (0x02 : Byte).getLsbD 3 = false ∧
      (0x02 : Byte).extractLsb' 1 1 ≠ (linkQ 0).rxSeq) := by decide +kernel
theorem witness_ReplayOnlyAcknowledgesAgain :
    (0x02 : Byte).getLsbD 3 = false ∧ ∃ t, exec (.peerPath 0x41 0x02 [0, 1, 2, 3]) (at' (linkQ 0)) = .next t :=
  ⟨by decide, goesOn_iff (by decide +kernel)⟩
theorem witness_UnexpectedReplyIsDropped :
    (linkQ 0).regValid = false ∧ (joinPending.regValid = true ∧ joinPending.regCmdId ≠ 0x39) := by decide
/-- A matching reply and one that does not match. -/
theorem witness_MatchedReplyClearsRegistration :
    (∃ t, exec (.replyPath 0x31 0 [0]) (at' joinPending) = .next t) ∧
    (∃ t, exec (.replyPath 0x39 0 [0]) (at' joinPending) = .next t) ∧ joinPending.regValid = true :=
  ⟨goesOn_iff (by decide +kernel), goesOn_iff (by decide +kernel), rfl⟩

theorem witness_InvokeSendsRequest :
    (Params.tc.cat[2]? = some tcSend ∧
      requestPayload tcSend [.int 0xFF7E, .raw (List.replicate 16 0x7E)] =
        some (0xFF :: 0x7E :: List.replicate 16 0x7E) ∧
      findReply (linkQ 0).replies 2 = some (Record.blank tcSend) ∧ (Record.blank tcSend).HasShape tcSend.rep) ∧
    (linkQ 0).busy = false := ⟨send_wellFormed, rfl⟩
theorem witness_InvokeWhileBusy :
    ReqWellFormed Params.tc joinPending 2 2 [.int 0xFF7E, .raw (List.replicate 16 0x7E)] ∧ joinPending.busy = true :=
  ⟨send_reqWellFormed _ rfl, rfl⟩
/-- The first and the last byte of two; the greatest value of two bytes, and the one value of none; a field at the end of
its bytes. -/
theorem witness_BigEndianRoundTrip :
    0 < 2 ∧ 1 < 2 ∧ 0xFFFF < 256 ^ 2 ∧ 0 < 256 ^ 0 ∧
    (⟨fieldTag, 3, 4, .raw⟩ : Field).o + (⟨fieldTag, 3, 4, .raw⟩ : Field).w ≤ (List.replicate 7 (0 : Byte)).length := by
  decide
/-- A successful reply to GETP of exactly `minReply` bytes. -/
theorem getp_accepted :
    ReplyAccepted Params.tc getpPending 1 0x32 0 [0x08, 0x12, 0x34, 0xDE, 0xAD, 0xBE, 0xEF] tcGetp
      (Record.blank tcGetp) where
  busy := rfl
  cmdId := rfl
  entry := rfl
  subId := fun _ => rfl
  long := fun _ => by decide
  found := by decide +kernel
  fields := fun _ => by decide +kernel

/-- Success (P2 step 7) and failure (E7). -/
theorem witness_ReplyHandleCompletes :
    ReplyAccepted Params.tc getpPending 1 0x32 0 [0x08, 0x12, 0x34, 0xDE, 0xAD, 0xBE, 0xEF] tcGetp
      (Record.blank tcGetp) ∧
    ReplyAccepted Params.tc getpPending 1 0x32 5 [0x08] tcGetp (Record.blank tcGetp) :=
  ⟨getp_accepted, rfl, rfl, rfl, fun _ => rfl, fun h => absurd h (by decide), by decide +kernel,
    fun h => absurd h (by decide)⟩
theorem witness_ReplyFramesComplete :
    getpPending.regValid = true ∧ getpPending.regCmdId = 0x32 ∧
    ReplyAccepted Params.tc getpPending getpPending.regEntry 0x32 0 [0x08, 0x12, 0x34, 0xDE, 0xAD, 0xBE, 0xEF] tcGetp
      (Record.blank tcGetp) ∧
    [0x08, 0x12, 0x34, 0xDE, 0xAD, 0xBE, (0xEF : Byte)].length + 1 = (0x08 : Byte).toNat ∧
    (0x0B : Byte).getLsbD 0 = true := ⟨rfl, rfl, getp_accepted, by decide, by decide⟩
theorem witness_ReplyNotPendingIsIgnored :
    (linkQ 0).busy = false ∧ (joinPending.busy = true ∧ joinPending.slotCmdId ≠ 0x32) := by decide
/-- E6: no byte after the result code; P2 step 3: another byte. -/
theorem witness_SubIdMismatchStalls :
    (getpPending.regValid = true ∧ getpPending.regCmdId = 0x32 ∧ getpPending.busy = true ∧
      getpPending.slotCmdId = 0x32 ∧ Params.tc.cat[getpPending.regEntry]? = some tcGetp ∧ tcGetp.param = true) ∧
    (∀ R', ([] : List Byte) ≠ getpPending.slotSubId :: R') ∧
    (∀ R', [0x09, (0x12 : Byte)] ≠ getpPending.slotSubId :: R') ∧
    ∃ t, t = (at' getpPending).setLink { getpPending with
      regValid := false, discards := getpPending.discards ++ [.subId] } :=
  ⟨⟨rfl, rfl, rfl, rfl, rfl, rfl⟩, nofun,
    fun _ h => absurd (List.cons.inj h).1 (by decide), _, rfl⟩
/-- E8: three bytes where seven are needed; and six, one short. -/
theorem witness_ShortReplyStalls :
    (getpPending.regValid = true ∧ getpPending.regCmdId = 0x32 ∧ getpPending.busy = true ∧
      getpPending.slotCmdId = 0x32 ∧ Params.tc.cat[getpPending.regEntry]? = some tcGetp) ∧
    (tcGetp.param = true → [0x08, 0x12, (0x34 : Byte)].head? = some getpPending.slotSubId) ∧
    [0x08, 0x12, (0x34 : Byte)].length < tcGetp.minReply ∧
    [0x08, 0x12, 0x34, 0xDE, 0xAD, (0xBE : Byte)].length < tcGetp.minReply ∧
    ∃ t, t = (at' getpPending).setLink { getpPending with
      regValid := false, discards := getpPending.discards ++ [.shortReply] } :=
  ⟨⟨rfl, rfl, rfl, rfl, rfl⟩, fun _ => rfl, by decide, by decide, _, rfl⟩
/-- In the stall state: an INVOKE (Busy), then a received byte. -/
theorem witness_StallLastsUntilCancelOrReset :
    Link.stalled { getpPending with regValid := false } ∧
    (∀ i ∈ [Instr.invoke 0 [] 0, .rxByte 0x7E], isTraffic i = true) ∧
    ∃ t, execAll [.invoke 0 [] 0, .rxByte 0x7E] (at' { getpPending with regValid := false }) = .next t :=
  ⟨⟨rfl, rfl⟩, by decide, goesOn_iff (by decide +kernel)⟩

/-- The closing delimiter of the reply to JOIN. -/
def replyClosing : Link :=
  { joinPending with rxState := .receiving, rxFill := 6, rxCrc := 0xF0B8
                     rxBuf := [0x31, 0x01, 0x01, 0x00, 0x93, 0xEF] ++ List.replicate 122 0 }

theorem witness_OnlyCompletionClearsBusy :
    ∃ t, exec (.rxByte 0x7E) (at' replyClosing) = .next t ∧ replyClosing.busy = true ∧ t.link.busy = false := by
  have h : (linkOf (exec (.rxByte 0x7E) (at' replyClosing))).map Link.busy = some false := by decide +kernel
  cases e : exec (.rxByte 0x7E) (at' replyClosing) with
  | next t => exact ⟨t, rfl, rfl, by rw [e] at h; exact Option.some.inj h⟩
  | fault r => rw [e] at h; cases h
  | refused r => rw [e] at h; cases h
/-- E13: the record fills NOTIF_CAP exactly. -/
theorem witness_NotifDecodeDelivers :
    tcData ∈ Params.tc.ncat ∧ tcData.cmdId = 0x42 ∧ (tcData.fields.map Field.name).Nodup ∧
    tcData.minLen ≤ (List.replicate 15 (0 : Byte)).length ∧
    tcData.size (List.replicate 15 (0 : Byte)).length ≤ Params.tc.notifCap := by decide +kernel
/-- Each clause: E14's id, E11's length, E12's size. -/
theorem witness_NotifDecodeDrops :
    (∀ N ∈ Params.tc.ncat, N.cmdId ≠ 0x55) ∧
    (tcTime ∈ Params.tc.ncat ∧ tcTime.cmdId = 0x41 ∧ [0x01, 0x02, (0x03 : Byte)].length < tcTime.minLen) ∧
    (tcData ∈ Params.tc.ncat ∧ tcData.cmdId = 0x42 ∧ tcData.minLen ≤ (List.replicate 16 (0 : Byte)).length ∧
      Params.tc.notifCap < tcData.size (List.replicate 16 (0 : Byte)).length) := by decide +kernel
theorem witness_LateReplyAfterCancel : joinPending.regValid = true ∧ joinPending.regCmdId = 0x31 := by decide
/-- P5: JOIN again, its late reply with result code 7. -/
theorem witness_LateReplyCompletesNewCommand :
    ReqWellFormed Params.tc joinPending 0 3 [] ∧ Params.tc.cat[0]? = some tcJoin ∧
    (tcJoin.param = true → ([] : List Byte).head? = some tcJoin.subId) ∧
    ((7 : Byte) = Params.tc.rcOk → tcJoin.minReply ≤ ([] : List Byte).length) :=
  ⟨⟨tcJoin, [], Record.blank tcJoin, rfl, rfl, by decide, by decide +kernel, List.Perm.refl _⟩, rfl, nofun,
    fun h => absurd h (by decide)⟩
/-- No event, and one event. -/
theorem witness_AtMostOneEventPerByte :
    (∃ t, exec (.rxByte 0x41) (at' closing) = .next t) ∧ ∃ t, exec (.rxByte 0x7E) (at' closing) = .next t :=
  ⟨goesOn_iff (by decide +kernel), goesOn_iff (by decide +kernel)⟩
theorem witness_OutputsOnlyGrow : ∃ t, exec (.sendCommand 0x31 1 0 0 [] 0) (at' joinPending) = .next t :=
  goesOn_iff (by decide +kernel)
/-- An INVOKE that is sent, one that is turned away, CANCEL and RESET. -/
theorem witness_HostTransactionOutputs :
    (∃ t, exec (.invoke 0 [] 0) (at' (linkQ 0)) = .next t) ∧ (∃ t, exec (.invoke 1 [] 1) (at' joinPending) = .next t) ∧
    (∃ t, exec .cancel (at' joinPending) = .next t) ∧ ∃ t, exec .reset (at' joinPending) = .next t :=
  ⟨goesOn_iff (by decide +kernel), goesOn_iff (by decide +kernel), ⟨_, rfl⟩, ⟨_, rfl⟩⟩
/-- A record of GETP's shape with its result code and its `value`, and no `tag`. -/
def halfRead : Record :=
  ⟨some 5, [⟨fieldValue, 2, .int, some (.int 0x1234)⟩, ⟨fieldTag, 4, .raw, none⟩]⟩

/-- The reset link with that record as rec1. -/
def halfReadLink : Link := { linkQ 0 with replies := [(1, halfRead), (2, Record.blank tcSend)] }

/-- Each clause: rec0 while JOIN is pending; a missing record; a result code and a field, each with and without content;
a missing field; a write of a typed record and of an untyped one. -/
theorem witness_BorrowedRecordIsRefused :
    ({ at' joinPending with script := [⟨0, .host (.readReply 0 .rc)⟩] }.links[0]? = some joinPending ∧
      joinPending.busy = true ∧ (∃ sel, HostAccess.readReply 0 .rc = .readReply joinPending.slotDst sel) ∧
      ∃ r, HostAccess.writeReply 0 (Record.blank tcJoin) = .writeReply joinPending.slotDst r) ∧
    ({ at' halfReadLink with script := [⟨0, .host (.readReply 1 .rc)⟩] }.links[0]? = some halfReadLink ∧
      (halfReadLink.busy = false ∨ halfReadLink.slotDst ≠ 1)) ∧
    (joinPending.busy = false ∨ joinPending.slotDst ≠ 1) ∧
    findReply halfReadLink.replies 0 = none ∧
    (findReply halfReadLink.replies 1 = some halfRead ∧ halfRead.rc = some 5) ∧
    (findReply halfReadLink.replies 2 = some (Record.blank tcSend) ∧ (Record.blank tcSend).rc = none) ∧
    (∀ g ∈ halfRead.fields, g.name ≠ fieldUtc) ∧
    ((halfRead.fields.map ReplyField.name).Nodup ∧
      (∃ g ∈ halfRead.fields, g.val = none) ∧ ∃ g ∈ halfRead.fields, g.val = some (.int 0x1234)) ∧
    halfRead.Typed ∧
    ¬ ({ halfRead with fields := [⟨fieldValue, 2, .int, some (.int 0x10000)⟩] } : Record).Typed := by
  refine ⟨⟨rfl, rfl, ⟨_, rfl⟩, ⟨_, rfl⟩⟩, ⟨rfl, .inl rfl⟩, .inr (by decide), by decide, by decide, by decide, by decide,
    by decide, ⟨by decide, ?_⟩, fun h => ?_⟩
  · intro g hg v hv
    fin_cases hg
    · exact .inl ⟨rfl, 0x1234, (Option.some.inj hv).symm, by decide⟩
    · cases hv
  · rcases h.2 _ (List.mem_singleton.mpr rfl) _ rfl with ⟨-, n, hn, hlt⟩ | ⟨hk, -⟩
    · obtain rfl : 0x10000 = n := Value.int.inj hn
      exact absurd hlt (by decide)
    · cases hk
/-- No record yet, and a record with one field. -/
theorem witness_NotifReadNeedsRecord :
    ({ at' (linkQ 0) with script := [⟨0, .host .readNotif⟩] }.links[0]? = some (linkQ 0) ∧
      (linkQ 0).notifRec = none) ∧
    { at' (linkQ 0) with link := { linkQ 0 with notifRec := some ⟨[(fieldUtc, .int 1)], none⟩ },
                         script := [⟨0, .host .readNotif⟩] }.links[0]? =
      some { linkQ 0 with notifRec := some ⟨[(fieldUtc, .int 1)], none⟩ } := ⟨⟨rfl, rfl⟩, rfl⟩

end Sys2Proof.Tests
end

/-! The wire byte classes (30_encoding.md R70): what the class of a byte is, and that its operation receives that byte. -/

namespace Sys2Proof.Machine

/-! ### The class of a byte -/

/-- The wire port decodes one byte to its class. -/
theorem decode_wire (p : Params) (b : Byte) : decode p ⟨.wire, [b], .none⟩ = .op (decodeWireByte p b) := rfl

@[simp] theorem decodeWireByte_delim (p : Params) : decodeWireByte p p.delim = .wireDelim := if_pos rfl

/-- R7(a) is what makes ESC a class of its own: `decodeWireByte` tests for DELIM first. -/
@[simp] theorem decodeWireByte_esc (c : Config) : decodeWireByte c.toParams c.esc = .wireEsc :=
  (if_neg c.link_facts.1.symm).trans (if_pos rfl)

theorem decodeWireByte_data {p : Params} {b : Byte} (hd : b ≠ p.delim) (he : b ≠ p.esc) :
    decodeWireByte p b = .wireData b := (if_neg hd).trans (if_neg he)

/-! ### Each class is RX_BYTE of its byte -/

theorem exec_wireDelim (s : State) : exec .wireDelim s = exec (.rxByte s.cfg.delim) s := rfl

theorem exec_wireEsc (s : State) : exec .wireEsc s = exec (.rxByte s.cfg.esc) s := rfl

theorem exec_wireData (d : Byte) (s : State) : exec (.wireData d) s = exec (.rxByte d) s := rfl

/-- R70, R103: whatever the class of a byte, its operation receives that byte. -/
theorem exec_decodeWireByte (s : State) (b : Byte) :
    exec (decodeWireByte s.cfg.toParams b) s = exec (.rxByte b) s := by
  by_cases hd : b = s.cfg.delim
  · rw [hd, decodeWireByte_delim, exec_wireDelim]
  by_cases he : b = s.cfg.esc
  · rw [he, decodeWireByte_esc, exec_wireEsc]
  · rw [decodeWireByte_data hd he, exec_wireData]

/-- Settles O4: one lemma per class, then the meaning of whichever class the byte is of. -/
theorem wireByteClasses : Obligations.WireByteClasses := by
  intro s b
  refine ⟨decode_wire _ b, ?delim, ?esc, decodeWireByte_data, exec_decodeWireByte s b⟩
  case delim =>
    rintro rfl
    exact decodeWireByte_delim _
  case esc =>
    rintro rfl
    exact decodeWireByte_esc _

end Sys2Proof.Machine

/-! The Link Framer's own rows (40_link_framer.md): TX_OPEN and TX_WRITE (R110, R111), RX_ADD (R105, R106), RX_CLOSE
(R107) and the last line of RX_BYTE (R108). Each operation is said on the link first, one equation per case of its rule;
the row is that operation on the addressed link. -/

namespace Sys2Proof.Machine

/-! ### The rows as operations on the addressed link -/

theorem exec_rxByte (b : Byte) (s : State) : exec (.rxByte b) s = s.lift (rxByte s.cfg.toParams b s.link) := rfl

theorem exec_rxAdd (b : Byte) (s : State) : exec (.rxAdd b) s = .next (s.setLink (rxAdd s.cfg.toParams b s.link)) := rfl

theorem exec_rxClose (s : State) : exec .rxClose s = s.lift (rxClose s.cfg.toParams s.link) := rfl

theorem exec_txOpen (s : State) : exec .txOpen s = .next (s.setLink (txOpen s.cfg.toParams s.link)) := rfl

theorem exec_txWrite (u : Byte) (s : State) :
    exec (.txWrite u) s = .next (s.setLink (txWrite s.cfg.toParams u s.link)) := rfl

theorem exec_frameReceived (P : List Byte) (s : State) :
    exec (.frameReceived P) s = s.lift (frameReceived s.cfg.toParams P s.link) := rfl

/-- A lifted operation replaces the addressed link, so the link it stood on does not count. -/
@[simp] theorem State.setLink_lift (s : State) (l : Link) (o : LinkOut) : (s.setLink l).lift o = s.lift o := rfl

/-! ### Transmit path -/

/-- Settles O13. -/
theorem txOpenEmitsDelimiter : Obligations.TxOpenEmitsDelimiter := by
  intro s
  rw [exec_txOpen, txOpen_eq]

/-- R71: the wire bytes of one unescaped byte, as TX outputs. -/
theorem stuffByte_map_byte (p : Params) (u : Byte) :
    (stuffByte p u).map TxOut.byte =
      if u = p.delim ∨ u = p.esc then [.byte p.esc, .byte (u ^^^ p.mask)] else [.byte u] := by
  unfold stuffByte
  split <;> rfl

/-- Settles O14. -/
theorem txWriteFoldsAndStuffs : Obligations.TxWriteFoldsAndStuffs := by
  intro s u
  rw [exec_txWrite, txWrite_eq, stuffByte_map_byte]

/-! ### RX_ADD -/

theorem rxStore_of_full {p : Params} {l : Link} (h : l.rxFill = p.rxCap) (b : Byte) :
    rxStore p b l = { l with rxFill := 0, rxState := .idle, discards := l.discards ++ [.overflow] } := if_pos h

theorem rxStore_of_not_full {p : Params} {l : Link} (h : l.rxFill ≠ p.rxCap) (b : Byte) :
    rxStore p b l =
      { l with rxBuf := l.rxBuf.set l.rxFill b, rxFill := l.rxFill + 1, rxCrc := crcStep p l.rxCrc b } := if_neg h

theorem rxAdd_of_esc {p : Params} {b : Byte} (h : b = p.esc) (l : Link) :
    rxAdd p b l = { l with rxEsc := true } := if_pos h

/-- R105: a byte that is not ESC is unescaped where an escape is pending, and clears the escape whether one is pending
or not. -/
theorem rxAdd_of_ne_esc {p : Params} {b : Byte} (h : b ≠ p.esc) (l : Link) :
    rxAdd p b l = rxStore p (if l.rxEsc then b ^^^ p.mask else b) { l with rxEsc := false } := by
  obtain ⟨he, -⟩ | ⟨-, hp, hadd⟩ | ⟨-, hp, hadd⟩ := rxAdd_cases p b l
  · exact absurd he h
  · rw [hadd, if_pos hp]
  · have hclear : { l with rxEsc := false } = l := by rw [← hp]
    rw [hadd, hclear, hp, if_neg Bool.false_ne_true]

/-- Settles O17: one equation of RX_ADD and of its store per clause. -/
theorem rxAddStoresByte : Obligations.RxAddStoresByte := by
  rintro s b u rfl
  refine ⟨fun he => ?escape, fun hne hfull => ?overflow, fun hne hfits => ?stored⟩ <;> rw [exec_rxAdd]
  case escape => rw [rxAdd_of_esc he]
  case overflow => rw [rxAdd_of_ne_esc hne, rxStore_of_full (l := { s.link with rxEsc := false }) hfull]
  case stored => rw [rxAdd_of_ne_esc hne, rxStore_of_not_full (l := { s.link with rxEsc := false }) hfits]

/-! ### RX_CLOSE -/

theorem rxClose_of_bad {p : Params} {l : Link} (h : l.rxFill < 2 ∨ l.rxCrc ≠ p.good) :
    rxClose p l = .next ((rxShut l).discard .crc) :=
  if_neg fun ⟨hfill, hcrc⟩ => h.elim (Nat.not_lt.mpr hfill) (· hcrc)

/-- A good frame of the two CRC bytes alone is empty. -/
theorem rxClose_of_empty {p : Params} {l : Link} (hfill : l.rxFill = 2) (hcrc : l.rxCrc = p.good) :
    rxClose p l = .next ((rxShut l).discard .empty) :=
  (if_pos ⟨hfill.ge, hcrc⟩).trans (if_pos (Nat.sub_eq_zero_of_le hfill.le))

theorem rxClose_of_good {p : Params} {l : Link} (hfill : 2 < l.rxFill) (hcrc : l.rxCrc = p.good) :
    rxClose p l = frameReceived p (l.rxBuf.take (l.rxFill - 2)) (rxShut l) :=
  (if_pos ⟨hfill.le, hcrc⟩).trans (if_neg (Nat.sub_ne_zero_of_lt hfill))

/-- Settles O19: one equation of RX_CLOSE per clause; the delivery is FRAME_RECEIVED on the closed framer. -/
theorem rxCloseChecksCrc : Obligations.RxCloseChecksCrc := by
  refine fun s => ⟨fun hbad => ?bad, fun hfill hcrc => ?empty, fun hfill hcrc => ?good⟩ <;> rw [exec_rxClose]
  case bad =>
    rw [rxClose_of_bad hbad]
    rfl
  case empty =>
    rw [rxClose_of_empty hfill hcrc]
    rfl
  case good =>
    rw [rxClose_of_good hfill hcrc, exec_frameReceived, State.setLink_lift]
    rfl

/-! ### RX_BYTE -/

/-- R108: whichever arm RX_BYTE took, its last line overwrites `rxLastDelim`. -/
theorem rxByte_rxLastDelim {p : Params} {b : Byte} {l t : Link} (h : rxByte p b l = .next t) :
    t.rxLastDelim = decide (b = p.delim) := by
  obtain ⟨u, rfl, -⟩ := rxByte_cases h
  rfl

/-- Settles O25. -/
theorem rxByteRecordsDelimiter : Obligations.RxByteRecordsDelimiter := by
  intro s t b h
  rw [exec_rxByte] at h
  obtain ⟨l, hl, rfl⟩ := State.lift_eq_next h
  rw [State.setLink_link, rxByte_rxLastDelim hl, decide_eq_true_iff]

end Sys2Proof.Machine

/-! The frames the Packet Transport sends (41_packet_transport.md): TX_OPEN, TX_WRITE of the link payload and TX_CLOSE
leave one frame of R73 on TX and GOOD in `txCrc` (R102), whatever the payload. SEND_COMMAND (R140 to R142) and SEND_ACK
(R148) are that sequence with the payloads of R81 and R80. -/

namespace Sys2Proof

/-! ### Complements of CRC bytes, and GOOD -/

theorem byte_xor_not : ∀ b : Byte, b ^^^ ~~~ b = 0xFF := by decide

theorem Crc.lo_xor (c d : Crc) : (c ^^^ d).lo = c.lo ^^^ d.lo := BitVec.setWidth_xor

theorem Crc.lo_not (c : Crc) : (~~~ c).lo = ~~~ c.lo := BitVec.setWidth_not (by decide)

theorem Crc.hi_not (c : Crc) : (~~~ c).hi = ~~~ c.hi := by
  ext i hi
  simp [Crc.hi]
  omega

/-- Two steps shift a CRC out altogether. -/
theorem Crc.shift_shift (c : Crc) : c >>> 8 >>> 8 = 0#16 :=
  (BitVec.shiftRight_add c 8 8).symm.trans (BitVec.ushiftRight_eq_zero (by decide))

/-- R7(d): GOOD is the residue of R102. -/
theorem Config.good_eq_residue (c : Config) : c.good = c.residue := by
  obtain ⟨-, hgood, -⟩ := c.size_facts
  exact hgood

end Sys2Proof

namespace Sys2Proof.Machine

/-! ### The running CRC over its own complement (R102) -/

/-- CRC_STEP looks up the low byte of the CRC, XORed with the byte (R100). -/
theorem crcStep_eq (p : Params) (c : Crc) (b : Byte) : crcStep p c b = (c >>> 8) ^^^ p.tableAt (c.lo ^^^ b) := by
  have hb : Crc.lo (b.setWidth 16) = b := BitVec.setWidth_setWidth_of_le b (by decide)
  rw [← hb, ← Crc.lo_xor, hb]
  rfl

theorem crcStep_complement_lo (p : Params) (c : Crc) : crcStep p c (~~~ c).lo = (c >>> 8) ^^^ p.tableAt 0xFF := by
  rw [crcStep_eq, Crc.lo_not, byte_xor_not]

/-- What the first step leaves of `c` cancels against its high byte; `t` is the table word of that step. -/
theorem crcStep_complement_hi (p : Params) (c t : Crc) :
    crcStep p ((c >>> 8) ^^^ t) (~~~ c).hi = (t >>> 8) ^^^ p.tableAt (0xFF ^^^ t.lo) := by
  have hshift : ((c >>> 8) ^^^ t) >>> 8 = t >>> 8 := by
    rw [BitVec.ushiftRight_xor_distrib, Crc.shift_shift, BitVec.zero_xor]
  have hindex : Crc.lo ((c >>> 8) ^^^ t) ^^^ (~~~ c).hi = 0xFF ^^^ t.lo := calc
    _ = c.hi ^^^ t.lo ^^^ ~~~ c.hi := by rw [Crc.lo_xor, Crc.hi_not]; rfl
    _ = 0xFF ^^^ t.lo := by rw [BitVec.xor_comm c.hi, BitVec.xor_assoc, byte_xor_not, BitVec.xor_comm]
  rw [crcStep_eq, hshift, hindex]

/-- R102: folding the complement of the running CRC, low byte first, leaves the residue, whatever the CRC was. -/
theorem crcFold_complement (p : Params) (c : Crc) : crcFold p c [(~~~ c).lo, (~~~ c).hi] = p.residue := by
  rw [crcFold_cons, crcFold_cons, crcFold_nil, crcStep_complement_lo, crcStep_complement_hi]
  rfl

/-! ### One frame -/

theorem txWrites_append (p : Params) (us vs : List Byte) (l : Link) :
    txWrites p (us ++ vs) l = txWrites p vs (txWrites p us l) := List.foldl_append

/-- R73, R110 to R112: a link payload written between TX_OPEN and TX_CLOSE goes out as one frame and a flush. -/
theorem txClose_txWrites_txOpen (p : Params) (P : List Byte) (l : Link) :
    txClose p (txWrites p P (txOpen p l)) = { l with txCrc := p.residue, tx := l.tx ++ frameOut p P } := by
  rw [txClose_eq, crcFold_complement, txWrites_eq, txOpen_eq]
  simp [frameOut, frameBytes, fcsBytes, stuff_append]

/-! ### SEND_ACK -/

theorem exec_sendAck (cmd : Byte) (q : Bit) (s : State) :
    exec (.sendAck cmd q) s = .next (s.setLink (sendAck s.cfg.toParams cmd s.link)) := rfl

theorem ackFlags_eq : ∀ q : Bit, ackFlags q = if q = 0 then 0x01 else 0x03 := by decide

/-- R80: the header of an acknowledgement is its whole link payload. -/
theorem ackHeader_bytes (cmd : Byte) (q : Bit) : [cmd, 0, ackFlags q] = ackPayload cmd q := by
  rw [ackFlags_eq, ackPayload]
  split <;> rfl

/-- R148: an acknowledgement is one frame. -/
theorem sendAck_eq (p : Params) (cmd : Byte) (l : Link) :
    sendAck p cmd l = { l with txCrc := p.residue, tx := l.tx ++ frameOut p (ackPayload cmd l.rxSeq) } := by
  rw [← ackHeader_bytes]
  exact txClose_txWrites_txOpen p _ l

/-- Settles O37: an acknowledgement is one frame, and the residue is GOOD (R7). -/
theorem sendAckTouchesNoSendState : Obligations.SendAckTouchesNoSendState := by
  intro s cmd q
  rw [exec_sendAck, sendAck_eq, s.cfg.good_eq_residue]

/-! ### SEND_COMMAND -/

theorem exec_sendCommand (cmd : Byte) (y q : Bit) (extraFlags : Byte) (A : List Byte) (e : Nat) (s : State) :
    exec (.sendCommand cmd y q extraFlags A e) s = s.lift (sendCommand s.cfg.toParams cmd extraFlags A e s.link) := rfl

theorem sendCommand_of_admitted {p : Params} {e : Nat} {A : List Byte} (he : e < p.cat.length) (hA : A.length ≤ 255)
    (cmd extraFlags : Byte) (l : Link) :
    sendCommand p cmd extraFlags A e l = .next (sendFrame p cmd extraFlags A e l) := if_pos ⟨he, hA⟩

/-- R81, R141: the header that goes out, followed by the application payload, is the command's link payload. -/
theorem commandHeader_bytes (l : Link) (cmd extraFlags : Byte) (A : List Byte) :
    [cmd, BitVec.ofNat 8 A.length, commandFlags extraFlags (nextSeq l) (nextSync l)] ++ A =
      commandPayload l cmd extraFlags A := by
  have hsync : (nextSync l).setWidth 8 <<< 3 = if l.txFirst then (8 : Byte) else 0 := by
    unfold nextSync
    split <;> rfl
  rw [commandFlags, hsync]
  rfl

/-- R140: the header and the payload are written as one link payload; the header's bits are those of the state before
the registration, which does not touch them. -/
theorem sendFrame_eq_txClose (p : Params) (cmd extraFlags : Byte) (A : List Byte) (e : Nat) (l : Link) :
    sendFrame p cmd extraFlags A e l =
      { txClose p (txWrites p (commandPayload l cmd extraFlags A)
          (txOpen p { l with regValid := true, regCmdId := cmd, regEntry := e })) with
        txFirst := false, txSeq := nextSeq l ^^^ 1 } := by
  rw [← commandHeader_bytes, txWrites_append]
  rfl

/-- R140 to R142: a command is one frame, between the registration and the new send state. -/
theorem sendFrame_eq (p : Params) (cmd extraFlags : Byte) (A : List Byte) (e : Nat) (l : Link) :
    sendFrame p cmd extraFlags A e l = { l with
      regValid := true, regCmdId := cmd, regEntry := e, txFirst := false, txSeq := nextSeq l ^^^ 1
      txCrc := p.residue, tx := l.tx ++ frameOut p (commandPayload l cmd extraFlags A) } := by
  rw [sendFrame_eq_txClose, txClose_txWrites_txOpen]

/-- Settles O30: operands R140 admits send one frame, and the residue is GOOD (R7). -/
theorem sendCommandSendsFrame : Obligations.SendCommandSendsFrame := by
  intro s cmd y q extraFlags A e he hA
  rw [exec_sendCommand, sendCommand_of_admitted he hA, State.lift_next, sendFrame_eq, s.cfg.good_eq_residue]
  rfl

end Sys2Proof.Machine

/-! The Command Engine (42_command_engine.md): CANCEL (R173), NOTIF_DECODE's checks (R180, R181) and REPLY_HANDLE's
completion (R174 to R178). First what the operations are made of: decoded field contents (R82) and the field writes into
a reply record (R177). -/

namespace Sys2Proof

/-! ### Looking up a notification entry (R84, R180) -/

/-- R84: notification ids are unique, so the id of an entry finds that entry. -/
theorem Config.find?_ncat (c : Config) {N : NotifEntry} (hN : N ∈ c.ncat) :
    c.ncat.find? (fun M => decide (M.cmdId = N.cmdId)) = some N := by
  obtain ⟨-, -, huniq⟩ := c.catalog_facts
  cases hfind : c.ncat.find? fun M => decide (M.cmdId = N.cmdId) with
  | none => exact absurd (decide_eq_true rfl) (List.find?_eq_none.mp hfind N hN)
  | some M =>
    have hid : M.cmdId = N.cmdId := by simpa using List.find?_some hfind
    exact congrArg some (List.inj_on_of_nodup_map huniq (List.mem_of_find?_eq_some hfind) hN hid)

end Sys2Proof

namespace Sys2Proof.Machine

/-! ### Decoded field contents (R11, R82) -/

theorem beValue_concat (s : List Byte) (b : Byte) : beValue (s ++ [b]) = 256 * beValue s + b.toNat := by
  simp [beValue]

/-- R11: the big-endian value is the sum of the bytes, each times its power of 256. -/
theorem beValue_eq_sum (s : List Byte) :
    beValue s = ((List.range s.length).map fun k => (s.getD k 0).toNat * 256 ^ (s.length - 1 - k)).sum := by
  induction s using List.reverseRecOn with
  | nil => rfl
  | append_singleton s b ih =>
    have hshift : ∀ k ∈ List.range s.length,
        ((s ++ [b]).getD k 0).toNat * 256 ^ (s.length + 1 - 1 - k) =
          256 * ((s.getD k 0).toNat * 256 ^ (s.length - 1 - k)) := fun k hk => by
      have hlt : k < s.length := List.mem_range.mp hk
      have hpow : s.length + 1 - 1 - k = s.length - 1 - k + 1 := by omega
      rw [List.getD_append _ _ _ _ hlt, hpow, pow_succ]
      ring
    rw [beValue_concat, ih, List.length_append, List.length_singleton, List.range_succ, List.map_append,
      List.sum_append, List.map_congr_left hshift, List.sum_map_mul_left]
    simp

theorem getD_slice {s : List Byte} {o w k : Nat} (h : k < w) : (slice s o w).getD k 0 = s.getD (o + k) 0 := by
  simp [slice, List.getD_eq_getElem?_getD, h]

/-- The bytes of a field that fits, each by its place in the payload. -/
theorem slice_eq_map {s : List Byte} {o w : Nat} (h : o + w ≤ s.length) :
    slice s o w = (List.range w).map fun k => s.getD (o + k) 0 := by
  refine List.ext_getElem (by simp [slice_length h]) fun k hk hk' => ?_
  have hw : k < w := by simpa using hk'
  rw [List.getElem_map, List.getElem_range, ← getD_slice hw, List.getD_eq_getElem _ _ hk]

/-- R82: a field that fits its payload decodes to the content the rules write out. -/
theorem decodeField_eq_fieldContent {f : Field} {s : List Byte} (h : f.o + f.w ≤ s.length) :
    decodeField f s = fieldContent f s := by
  unfold decodeField fieldContent
  cases f.kind with
  | raw => exact congrArg Value.raw (slice_eq_map h)
  | int =>
    refine congrArg Value.int ?_
    rw [beValue_eq_sum, slice_length h]
    refine congrArg List.sum (List.map_congr_left fun k hk => ?_)
    rw [getD_slice (List.mem_range.mp hk)]

/-! ### Field writes into a reply record (R177) -/

theorem Record.mem_write {r : Record} {n : FieldName} {v : Value} {g : ReplyField} :
    g ∈ (r.write n v).fields ↔ ∃ k ∈ r.fields, (if k.name = n then { k with val := some v } else k) = g := List.mem_map

/-- A field of the written name holds the written value. -/
theorem Record.val_of_mem_write {r : Record} {v : Value} {g : ReplyField} (h : g ∈ (r.write g.name v).fields) :
    g.val = some v := by
  obtain ⟨k, -, hk⟩ := Record.mem_write.mp h
  split at hk
  · rw [← hk]
  · rename_i hne
    exact absurd (congrArg ReplyField.name hk) hne

/-- Writing a field neither adds, drops nor changes a field of another name. -/
theorem Record.mem_write_of_ne {r : Record} {n : FieldName} {v : Value} {g : ReplyField} (h : g.name ≠ n) :
    g ∈ (r.write n v).fields ↔ g ∈ r.fields := by
  rw [Record.mem_write]
  constructor
  · rintro ⟨k, hk, rfl⟩
    split at h
    · exact absurd ‹k.name = n› h
    · rwa [if_neg h]
  · exact fun hg => ⟨g, hg, if_neg h⟩

theorem Record.writeAll_cons (r : Record) (f : Field) (rep : List Field) (R : List Byte) :
    r.writeAll (f :: rep) R = (r.write f.name (decodeField f R)).writeAll rep R := rfl

@[simp] theorem Record.writeAll_rc (r : Record) (rep : List Field) (R : List Byte) : (r.writeAll rep R).rc = r.rc := by
  induction rep generalizing r with
  | nil => rfl
  | cons f rep ih => exact ih _

/-- The field writes of a reply leave the fields that the layout does not name. -/
theorem Record.mem_writeAll_of_notMem {r : Record} {rep : List Field} {R : List Byte} {g : ReplyField}
    (h : g.name ∉ rep.map Field.name) : g ∈ (r.writeAll rep R).fields ↔ g ∈ r.fields := by
  induction rep generalizing r with
  | nil => rfl
  | cons f rep ih =>
    obtain ⟨hne, hrest⟩ := not_or.mp (mt List.mem_cons.mpr h)
    rw [Record.writeAll_cons, ih hrest, Record.mem_write_of_ne hne]

/-- R177: each field of the layout is left with its decoded value; distinct names keep a later write off it. -/
theorem Record.val_of_mem_writeAll {r : Record} {rep : List Field} {R : List Byte} {f : Field} {g : ReplyField}
    (hnames : (rep.map Field.name).Nodup) (hf : f ∈ rep) (hg : g ∈ (r.writeAll rep R).fields)
    (hname : g.name = f.name) : g.val = some (decodeField f R) := by
  induction rep generalizing r with
  | nil => exact absurd hf List.not_mem_nil
  | cons k rep ih =>
    obtain ⟨hk, hrest⟩ := List.nodup_cons.mp hnames
    rw [Record.writeAll_cons] at hg
    obtain rfl | hf := List.mem_cons.mp hf
    · rw [← hname] at hk hg
      exact Record.val_of_mem_write ((Record.mem_writeAll_of_notMem hk).mp hg)
    · exact ih hrest hf hg

/-- R177 on failure: the result code alone is written. -/
theorem recordWritten_failure {p : Params} {rc : Byte} (hrc : rc ≠ p.rcOk) (C : CmdEntry) (R : List Byte)
    (r : Record) : RecordWritten p C rc R r { r with rc := some rc } where
  rcWritten := rfl
  failure := fun _ => rfl
  decoded := fun h => absurd h hrc
  kept := fun _ hg _ => hg
  typed := rfl

/-- R177 on success: the fields of a well-formed layout (R83) all fit a reply of `minReply` bytes and have distinct
names. -/
theorem recordWritten_success {p : Params} {C : CmdEntry} {R : List Byte} (hC : C.ok = true)
    (hlong : C.minReply ≤ R.length) (r : Record) :
    RecordWritten p C p.rcOk R r (Record.writeAll { r with rc := some p.rcOk } C.rep R) := by
  obtain ⟨-, hfit, -, -, hnames, -⟩ := CmdEntry.ok_iff.mp hC
  exact {
    rcWritten := Record.writeAll_rc _ _ _
    failure := fun h => absurd rfl h
    decoded := fun _ f hf g hg hname => by
      rw [Record.val_of_mem_writeAll hnames hf hg hname, decodeField_eq_fieldContent ((hfit f hf).trans hlong)]
    kept := fun g hg hname => (Record.mem_writeAll_of_notMem hname).mpr hg
    typed := Record.writeAll_shape _ _ _ }

/-! ### REPLY_HANDLE on an accepted reply -/

theorem exec_replyHandle (e : Nat) (cmd rc : Byte) (R : List Byte) (s : State) :
    exec (.replyHandle e cmd rc R) s = s.lift (replyHandle s.cfg.toParams e cmd rc R s.link) := rfl

theorem subIdWrong_eq_false {R : List Byte} {subId : Byte} : subIdWrong R subId = false ↔ R.head? = some subId := by
  simp [subIdWrong]

/-- An accepted reply passes the three checks of R174 to R176. -/
theorem ReplyAccepted.replyHandle_eq {p : Params} {l : Link} {e : Nat} {cmd rc : Byte} {R : List Byte} {C : CmdEntry}
    {r : Record} (h : ReplyAccepted p l e cmd rc R C r) : replyHandle p e cmd rc R l = completeReply p C cmd rc R l := by
  have hpending : ¬ (l.busy = false ∨ l.slotCmdId ≠ cmd) := by simp [h.busy, h.cmdId]
  have hsub : ¬ (C.param && subIdWrong R l.slotSubId) = true := fun hbad => by
    obtain ⟨hparam, hwrong⟩ := Bool.and_eq_true_iff.mp hbad
    rw [subIdWrong_eq_false.mpr (h.subId hparam)] at hwrong
    exact Bool.false_ne_true hwrong
  have hlong : ¬ (rc = p.rcOk ∧ R.length < C.minReply) := fun ⟨hrc, hshort⟩ => Nat.not_lt.mpr (h.long hrc) hshort
  simp only [replyHandle, if_neg hpending, h.entry, if_neg hsub, if_neg hlong]

theorem completeReply_failure {p : Params} {rc : Byte} {l : Link} {r : Record} (hrc : rc ≠ p.rcOk)
    (hr : findReply l.replies l.slotDst = some r) (C : CmdEntry) (cmd : Byte) (R : List Byte) :
    completeReply p C cmd rc R l = .next { l with
      replies := putReply l.replies l.slotDst { r with rc := some rc }
      ev := l.ev ++ [.replyReady cmd], busy := false } := by
  simp only [completeReply, hr, if_neg hrc]
  rfl

theorem completeReply_success {p : Params} {C : CmdEntry} {l : Link} {r : Record}
    (hr : findReply l.replies l.slotDst = some r) (hf : r.hasFields C.rep = true) (cmd : Byte) (R : List Byte) :
    completeReply p C cmd p.rcOk R l = .next { l with
      replies := putReply l.replies l.slotDst (Record.writeAll { r with rc := some p.rcOk } C.rep R)
      ev := l.ev ++ [.replyReady cmd], busy := false } := by
  simp only [completeReply, hr, hf, if_true]
  rfl

/-- R174 to R178: an accepted reply puts one record, written as R177 says, emits its event and ends the command. -/
theorem ReplyAccepted.completes {c : Config} {l : Link} {e : Nat} {cmd rc : Byte} {R : List Byte} {C : CmdEntry}
    {r : Record} (h : ReplyAccepted c.toParams l e cmd rc R C r) :
    ∃ r', RecordWritten c.toParams C rc R r r' ∧ replyHandle c.toParams e cmd rc R l = .next { l with
      replies := putReply l.replies l.slotDst r', ev := l.ev ++ [.replyReady cmd], busy := false } := by
  rw [h.replyHandle_eq]
  by_cases hrc : rc = c.rcOk
  · obtain ⟨hcat, -, -⟩ := c.catalog_facts
    have hC : C.ok = true := hcat C (List.mem_of_getElem? h.entry)
    have hf : r.hasFields C.rep = true := Record.hasFields_iff.mpr (h.fields hrc)
    have hlong := h.long hrc
    subst hrc
    exact ⟨_, recordWritten_success hC hlong r, completeReply_success h.found hf cmd R⟩
  · exact ⟨_, recordWritten_failure hrc C R r, completeReply_failure hrc h.found C cmd R⟩

/-- Settles O45: the record an accepted reply puts is read back at the slot's handle, and at no other. -/
theorem replyHandleCompletes : Obligations.ReplyHandleCompletes := by
  intro s e cmd rc R C r h
  obtain ⟨r', hwritten, hreply⟩ := h.completes
  refine ⟨putReply s.link.replies s.link.slotDst r', r', ?_, findReply_putReply_same _ _ _, hwritten,
    fun d hd => findReply_putReply_other _ _ hd⟩
  rw [exec_replyHandle, hreply, State.lift_next]

/-! ### CANCEL -/

theorem exec_cancel (s : State) : exec .cancel s = .next (s.setLink (cancel s.link)) := rfl

theorem cancel_eq (l : Link) : cancel l = { l with busy := false } := rfl

/-- Settles O43. -/
theorem cancelClearsBusyOnly : Obligations.CancelClearsBusyOnly := by
  intro s
  rw [exec_cancel, cancel_eq]

/-! ### NOTIF_DECODE's checks -/

theorem exec_notifDecode (cmd : Byte) (A : List Byte) (s : State) :
    exec (.notifDecode cmd A) s = .next (s.setLink (notifDecode s.cfg.toParams cmd A s.link)) := rfl

theorem notifDecode_of_unknown {p : Params} {cmd : Byte} (h : ∀ N ∈ p.ncat, N.cmdId ≠ cmd) (A : List Byte) (l : Link) :
    notifDecode p cmd A l = { l with discards := l.discards ++ [.unknownNotif] } := by
  have hfind : p.ncat.find? (fun N => decide (N.cmdId = cmd)) = none :=
    List.find?_eq_none.mpr fun N hN => by simpa using h N hN
  simp only [notifDecode, hfind]
  rfl

/-- The two checks of R181 on a known notification, in their order. -/
theorem notifDecode_of_known (c : Config) {N : NotifEntry} (hN : N ∈ c.ncat) (A : List Byte) (l : Link) :
    notifDecode c.toParams N.cmdId A l =
      if A.length < N.minLen then { l with discards := l.discards ++ [.shortNotif] }
      else if c.notifCap < N.size A.length then { l with discards := l.discards ++ [.notifBuf] }
      else { l with notifRec := some (decodeNotif N A), ev := l.ev ++ [.notifReady N.cmdId c.noSubcmd] } := by
  simp only [notifDecode, c.find?_ncat hN]
  rfl

/-- Settles O53: one case per check that fails. -/
theorem notifDecodeDrops : Obligations.NotifDecodeDrops := by
  refine fun s cmd A => ⟨fun hunknown => ?unknown, ?known⟩
  case unknown => rw [exec_notifDecode, notifDecode_of_unknown hunknown]
  case known =>
    rintro N hN rfl
    refine ⟨fun hshort => ?short, fun hlong hlarge => ?large⟩ <;> rw [exec_notifDecode, notifDecode_of_known _ hN]
    case short => rw [if_pos hshort]
    case large => rw [if_neg (Nat.not_lt.mpr hlong), if_pos hlarge]

end Sys2Proof.Machine

/-! What the block refuses and what it runs (60_exceptions.md R220, R223): the configuration check is R7 as the
statements write it out, INVOKE runs exactly where REQ_WF holds (R172), and no received byte stops a link that meets the
invariant of R37. -/

namespace Sys2Proof.Machine

/-! ### The catalog checks (R83, R84) -/

/-- The request list of R83: what the recursion of `reqFieldsOk` checks of each field and of its place. -/
theorem reqFieldsOk_iff {fs : List ReqField} : reqFieldsOk fs = true ↔
    (∀ w, .int w ∈ fs → 1 ≤ w) ∧ (∀ w, .raw w ∈ fs → 1 ≤ w) ∧ ∀ m, .rawVar m ∉ fs.dropLast := by
  induction fs with
  | nil => simp [reqFieldsOk]
  | cons f fs ih =>
    obtain rfl | hne := eq_or_ne fs []
    · cases f <;> simp [reqFieldsOk]
    · rw [List.dropLast_cons_of_ne_nil hne]
      cases f with
      | int w => simp [reqFieldsOk, ih, and_assoc]
      | raw w => simp [reqFieldsOk, ih, and_assoc, and_left_comm]
      | rawVar m =>
        have hstop : ¬ reqFieldsOk (.rawVar m :: fs) = true := by simpa [reqFieldsOk] using hne
        exact iff_of_false hstop fun ⟨_, _, hlast⟩ => hlast m List.mem_cons_self

/-- R83: the check of a command entry is what the rule asks. -/
theorem meetsR83_iff {C : CmdEntry} : MeetsR83 C ↔ C.ok = true := by
  rw [CmdEntry.ok_iff, reqFieldsOk_iff]
  constructor
  · rintro ⟨hint, hraw, hvar, hmin, hfit, hsub, hlongest, hnames⟩
    exact ⟨⟨hint, hraw, hvar⟩, hfit, hsub, hlongest, hnames, hmin⟩
  · rintro ⟨⟨hint, hraw, hvar⟩, hfit, hsub, hlongest, hnames, hmin⟩
    exact ⟨hint, hraw, hvar, hmin, hfit, hsub, hlongest, hnames⟩

/-- R84: the check of a notification entry is what the rule asks. -/
theorem meetsR84_iff {N : NotifEntry} : MeetsR84 N ↔ N.ok = true := by
  have hparts : MeetsR84 N ↔ N.minLen ≤ 255 ∧ (∀ f ∈ N.fields, f.o + f.w ≤ N.minLen) ∧
      ∀ t, N.tail = some t → t ≤ N.minLen :=
    ⟨fun ⟨hmin, hfit, htail⟩ => ⟨hmin, hfit, htail⟩, fun ⟨hmin, hfit, htail⟩ => ⟨hmin, hfit, htail⟩⟩
  rw [hparts, NotifEntry.ok]
  cases N.tail <;> simp [and_assoc]

/-! ### The configuration check (R6, R7, R169) -/

theorem linkOk_iff {p : Params} : p.linkOk = true ↔
    p.delim ≠ p.esc ∧ p.mask ≠ 0x00 ∧ p.delim ^^^ p.mask ≠ p.delim ∧ p.delim ^^^ p.mask ≠ p.esc ∧
    p.esc ^^^ p.mask ≠ p.delim ∧ p.esc ^^^ p.mask ≠ p.esc := by
  simp only [Params.linkOk, Bool.and_eq_true, decide_eq_true_eq, and_assoc]

theorem catalogsOk_iff {p : Params} : p.catalogsOk = true ↔
    (∀ C ∈ p.cat, MeetsR83 C) ∧ (∀ N ∈ p.ncat, MeetsR84 N) ∧ (p.ncat.map NotifEntry.cmdId).Nodup := by
  simp only [Params.catalogsOk, Bool.and_eq_true, decide_eq_true_eq, List.all_eq_true, meetsR83_iff, meetsR84_iff,
    and_assoc]

/-- A tuple passes the check of `Config` exactly where it meets R7, the table size and `N_INST ≥ 1` of R6, and R169. -/
theorem paramsOk_iff {p : Params} :
    p.ok = true ↔ MeetsR7 p ∧ p.table.length = 256 ∧ p.rcOk = 0x00 ∧ 1 ≤ p.nInst := by
  simp only [Params.ok, Bool.and_eq_true, decide_eq_true_eq, linkOk_iff, catalogsOk_iff]
  constructor
  · rintro ⟨⟨⟨⟨⟨⟨⟨⟨ha, hb, hc⟩, htable⟩, hd⟩, hlow⟩, hhigh⟩, hf⟩, hrc⟩, hinst⟩
    exact ⟨⟨ha, hb, hc, hd, ⟨hlow, hhigh⟩, hf⟩, htable, hrc, hinst⟩
  · rintro ⟨⟨ha, hb, hc, hd, ⟨hlow, hhigh⟩, hf⟩, htable, hrc, hinst⟩
    exact ⟨⟨⟨⟨⟨⟨⟨⟨ha, hb, hc⟩, htable⟩, hd⟩, hlow⟩, hhigh⟩, hf⟩, hrc⟩, hinst⟩

/-! ### INVOKE (R170, R172, R223) -/

theorem exec_invoke (e : Nat) (args : List Value) (dst : Nat) (s : State) :
    exec (.invoke e args dst) s = s.lift (invoke s.cfg.toParams e args dst s.link) := rfl

/-- R223: an INVOKE that fails REQ_WF has no meaning. -/
theorem invoke_of_misuse {p : Params} {l : Link} {e dst : Nat} {args : List Value}
    (h : ¬ ReqWellFormed p l e dst args) : invoke p e args dst l = .refused .encodingMisuse := by
  rw [reqWellFormed_iff] at h
  cases hC : p.cat[e]? with
  | none => simp only [invoke, hC]
  | some C =>
    have hwf : ¬ reqWf C args (findReply l.replies dst) = true := fun hwf => h ⟨C, hC, hwf⟩
    simp only [invoke, hC, if_neg hwf]

/-- R172: REQ_WF bounds the request and names a catalog entry, so the command it sends is one R140 admits. -/
theorem invoke_of_reqWellFormed {p : Params} {l : Link} {e dst : Nat} {args : List Value}
    (h : ReqWellFormed p l e dst args) : ∃ t, invoke p e args dst l = .next t := by
  obtain ⟨C, hC, hwf⟩ := reqWellFormed_iff.mp h
  obtain ⟨he, -⟩ := List.getElem?_eq_some_iff.mp hC
  have hlen : (encodeRequest C args).length ≤ 255 := by
    simp only [reqWf, Bool.and_eq_true, decide_eq_true_eq] at hwf
    obtain ⟨⟨-, hlen⟩, -⟩ := hwf
    exact hlen
  simp only [invoke, hC, if_pos hwf, sendCommand_of_admitted he hlen, onNext_next]
  split <;> exact ⟨_, rfl⟩

/-! ### A reply stops no link that meets the invariant (R37, R174 to R178) -/

/-- A reply to the pending command completes where the command's record has the entry's fields. -/
theorem completeReply_runs {p : Params} {C : CmdEntry} {l : Link} {r : Record}
    (hr : findReply l.replies l.slotDst = some r) (hf : r.hasFields C.rep = true) (cmd rc : Byte) (R : List Byte) :
    ∃ t, completeReply p C cmd rc R l = .next t := by
  by_cases hrc : rc = p.rcOk
  · subst hrc
    exact ⟨_, completeReply_success hr hf cmd R⟩
  · exact ⟨_, completeReply_failure hrc hr C cmd R⟩

/-- R174 to R176: each check that fails discards the reply. One that passes them all is the pending command's, and the
slot's entry is the only one asked for. -/
theorem replyHandle_runs {p : Params} {l : Link} {e : Nat} (hslot : l.slotInv p) (he : l.busy = true → e = l.slotEntry)
    (cmd rc : Byte) (R : List Byte) : ∃ t, replyHandle p e cmd rc R l = .next t := by
  unfold replyHandle
  split
  · exact ⟨_, rfl⟩
  · rename_i hpending
    obtain ⟨hbusy, -⟩ : l.busy = true ∧ l.slotCmdId = cmd := by simpa using hpending
    obtain ⟨C, r, hC, -, -, hr, hfits⟩ := hslot hbusy
    simp only [he hbusy, hC]
    split
    · exact ⟨_, rfl⟩
    · split
      · exact ⟨_, rfl⟩
      · exact completeReply_runs hr (Record.hasFields_of_fits hfits) cmd rc R

/-- R37(d): the registration that lets a reply through is the pending command's, so its entry is the slot's. -/
theorem replyPath_runs {p : Params} {l : Link} (hreg : l.regInv) (hslot : l.slotInv p) (cmd : Byte) (A : List Byte) :
    ∃ t, replyPath p cmd A l = .next t := by
  cases A with
  | nil => exact ⟨_, rfl⟩
  | cons rc R =>
    simp only [replyPath]
    split
    · rename_i hmatch
      obtain ⟨hvalid, -⟩ := hmatch
      have hentry : l.busy = true → l.regEntry = l.slotEntry := fun hbusy =>
        have ⟨_, hentry⟩ := hreg hbusy hvalid
        hentry
      exact replyHandle_runs (l := { l with regValid := false }) hslot hentry cmd rc R
    · exact ⟨_, rfl⟩

theorem frameReceived_runs {p : Params} {l : Link} (hreg : l.regInv) (hslot : l.slotInv p) (P : List Byte) :
    ∃ t, frameReceived p P l = .next t := by
  unfold frameReceived
  split
  · split
    · exact ⟨_, rfl⟩
    · split
      · exact replyPath_runs hreg hslot _ _
      · exact ⟨_, rfl⟩
  · exact ⟨_, rfl⟩

/-- R107: closing the framer touches neither the registration nor the slot, so the payload is delivered on a link that
still meets the invariant. -/
theorem rxClose_runs {p : Params} {l : Link} (hreg : l.regInv) (hslot : l.slotInv p) : ∃ t, rxClose p l = .next t := by
  obtain hcrc | hempty | ⟨-, -, hgood⟩ := rxClose_cases p l
  · exact ⟨_, hcrc⟩
  · exact ⟨_, hempty⟩
  · rw [hgood]
    exact frameReceived_runs (l := rxShut l) hreg hslot _

/-- R103: only the delimiter that closes a frame reaches the registration and the slot. -/
theorem rxByte_runs {p : Params} {l : Link} (hreg : l.regInv) (hslot : l.slotInv p) (b : Byte) :
    ∃ t, rxByte p b l = .next t := by
  have harm : ∃ u, rxArm p b l = .next u := by
    unfold rxArm
    split
    · split <;> exact ⟨_, rfl⟩
    · split
      · exact ⟨_, rfl⟩
      · exact rxClose_runs hreg hslot
  obtain ⟨u, hu⟩ := harm
  exact ⟨_, by rw [rxByte, hu, onNext_next]⟩

/-! ### The obligation -/

/-- What runs on the addressed link runs on the machine. -/
theorem State.lift_runs {s : State} {o : LinkOut} (h : ∃ l, o = .next l) : ∃ t, s.lift o = .next t := by
  obtain ⟨l, rfl⟩ := h
  exact ⟨_, State.lift_next s l⟩

/-- Settles O26: INVOKE by the two halves of REQ_WF, RX_BYTE by the invariant, and both directions of R7 by the check
that every `Config` carries. -/
theorem onlyMisuseIsRefused : Obligations.OnlyMisuseIsRefused := by
  refine ⟨fun s e dst args => ⟨fun hbad => ?misuse, fun hgood => ?invoke⟩, fun s i hinv hi => ?transaction,
    fun c => ?meets, fun p hp htable hrc hinst => ?built⟩
  case misuse => rw [exec_invoke, invoke_of_misuse hbad, State.lift_refused]
  case invoke => exact State.lift_runs (invoke_of_reqWellFormed hgood)
  case transaction =>
    obtain ⟨-, hreg, hslot, -⟩ := hinv
    obtain ⟨b, rfl⟩ | rfl | rfl := hi
    · exact State.lift_runs (rxByte_runs hreg hslot b)
    · exact ⟨_, exec_cancel s⟩
    · exact ⟨_, rfl⟩
  case meets =>
    obtain ⟨hmeets, -⟩ := paramsOk_iff.mp c.wf
    exact hmeets
  case built => exact ⟨⟨p, paramsOk_iff.mpr ⟨hp, htable, hrc, hinst⟩⟩, rfl⟩

end Sys2Proof.Machine

/-! The encoding (30_encoding.md, the opcode table): what each decoder of a row's form accepts, and from that the two
directions between operations and transactions. -/

namespace Sys2Proof

/-! ### The fixed bits of the flags byte (R76, R80, R81) -/

theorem isCommandFlags_commandWordFlags : ∀ y s : Bit, isCommandFlags (commandWordFlags y s) = true := by decide
theorem syncOf_commandWordFlags : ∀ y s : Bit, syncOf (commandWordFlags y s) = y := by decide
theorem seqOf_commandWordFlags : ∀ y s : Bit, seqOf (commandWordFlags y s) = s := by decide
theorem commandWordFlags_of_isCommandFlags :
    ∀ f : Byte, isCommandFlags f = true → commandWordFlags (syncOf f) (seqOf f) = f := by decide

theorem isCommandFlags_ackWordFlags : ∀ s : Bit, isCommandFlags (ackWordFlags s) = false := by decide
theorem isAckFlags_ackWordFlags : ∀ s : Bit, isAckFlags (ackWordFlags s) = true := by decide
theorem seqOf_ackWordFlags : ∀ s : Bit, seqOf (ackWordFlags s) = s := by decide
theorem ackWordFlags_of_isAckFlags : ∀ f : Byte, isAckFlags f = true → ackWordFlags (seqOf f) = f := by decide

/-- REPLY_PATH's word has RESPONSE set and seven free bits above it. -/
theorem replyFlags_response : ∀ x : BitVec 7, ((x.setWidth 8 <<< 1) ||| 1 : Byte).getLsbD 0 = true := by decide
theorem replyFlags_extract : ∀ x : BitVec 7, ((x.setWidth 8 <<< 1) ||| 1 : Byte).extractLsb' 1 7 = x := by decide
theorem replyFlags_of_response : ∀ f : Byte, f.getLsbD 0 = true →
    (((f.extractLsb' 1 7).setWidth 8 <<< 1) ||| 1 : Byte) = f := by decide

/-! ### What each form of row accepts -/

theorem require_eq_op {ok : Bool} {r : DecodeError} {i j : Instr} :
    Decoded.require ok r i = .op j ↔ ok = true ∧ i = j := by
  cases ok <;> simp [Decoded.require]

theorem decodeByteRow_eq_op {bs : List Byte} {f : Byte → Decoded} {i : Instr} :
    decodeByteRow bs f = .op i ↔ ∃ b, bs = [b] ∧ f b = .op i := by
  unfold decodeByteRow
  split
  · simp
  · rename_i hbs
    exact iff_of_false Decoded.noConfusion fun ⟨b, hb, _⟩ => hbs b hb

theorem decodeNoOperands_eq_op {o : Operands} {d : Decoded} {i : Instr} :
    decodeNoOperands o d = .op i ↔ o = .none ∧ d = .op i := by
  cases o <;> simp [decodeNoOperands]

theorem decodeDelimRow_eq_op {p : Params} {bs : List Byte} {i j : Instr} :
    decodeDelimRow p bs i = .op j ↔ bs = [p.delim] ∧ i = j := by
  unfold decodeDelimRow
  split
  · simp [require_eq_op]
  · rename_i hbs
    exact iff_of_false Decoded.noConfusion fun ⟨hb, _⟩ => hbs _ hb

/-- R74: the `length` byte of a header is the number of bytes after it exactly where it is that number's byte. -/
theorem header_length_iff {len : Byte} {n : Nat} : len.toNat = n ↔ len = BitVec.ofNat 8 n ∧ n ≤ 255 := by
  constructor
  · rintro rfl
    exact ⟨by simp, by have := len.isLt; omega⟩
  · rintro ⟨rfl, hn⟩
    rw [BitVec.toNat_ofNat]
    omega

theorem decodeHeaderRow_eq_op {bs : List Byte} {f : Byte → Byte → List Byte → Decoded} {i : Instr} :
    decodeHeaderRow bs f = .op i ↔
      ∃ cmd flags A, bs = cmd :: BitVec.ofNat 8 A.length :: flags :: A ∧ A.length ≤ 255 ∧ f cmd flags A = .op i := by
  unfold decodeHeaderRow
  split
  · rename_i cmd len flags A
    split
    · rename_i hlen
      obtain ⟨rfl, hA⟩ := header_length_iff.mp hlen
      constructor
      · exact fun h => ⟨cmd, flags, A, rfl, hA, h⟩
      · rintro ⟨_, _, _, hbs, -, h⟩
        simp only [List.cons.injEq] at hbs
        obtain ⟨rfl, -, rfl, rfl⟩ := hbs
        exact h
    · rename_i hlen
      refine iff_of_false Decoded.noConfusion ?_
      rintro ⟨_, _, _, hbs, hA, -⟩
      simp only [List.cons.injEq] at hbs
      obtain ⟨rfl, rfl, rfl, rfl⟩ := hbs
      exact hlen (header_length_iff.mpr ⟨rfl, hA⟩)
  · rename_i hbs
    exact iff_of_false Decoded.noConfusion fun ⟨cmd, flags, A, h, _⟩ => hbs _ _ _ _ h

/-- A received header's class (R77), by its RESPONSE and SYNC bits. -/
theorem decodeHdrIn_reply {flags : Byte} (h : flags.getLsbD 0 = true) (cmd len : Byte) (A : List Byte) :
    decodeHdrIn cmd len flags A = .hdrReply cmd len flags A := if_pos h

theorem decodeHdrIn_peerSync {flags : Byte} (h : flags.getLsbD 0 = false) (hs : flags.getLsbD 3 = true)
    (cmd len : Byte) (A : List Byte) : decodeHdrIn cmd len flags A = .hdrPeerSync cmd len flags A := by
  simp only [decodeHdrIn, h, hs, if_true, Bool.false_eq_true, if_false]

theorem decodeHdrIn_peerNosync {flags : Byte} (h : flags.getLsbD 0 = false) (hs : flags.getLsbD 3 = false)
    (cmd len : Byte) (A : List Byte) : decodeHdrIn cmd len flags A = .hdrPeerNosync cmd len flags A := by
  simp only [decodeHdrIn, h, hs, Bool.false_eq_true, if_false]

end Sys2Proof

namespace Sys2Proof.Machine

/-! ### Decoding an encoded operation -/

/-- Settles O1: per row, its form accepts the encoding, and the row's checks are the operation's well-formedness. -/
theorem decodeOfEncode : Obligations.DecodeOfEncode := by
  intro c i hwf
  cases i with
  | rxByte b => rfl
  | invoke e args dst => rfl
  | cancel => rfl
  | reset => rfl
  | wireDelim => rw [encode, decode_wire, decodeWireByte_delim]
  | wireEsc => rw [encode, decode_wire, decodeWireByte_esc]
  | wireData d =>
    simp only [Instr.wf, Bool.and_eq_true, decide_eq_true_eq] at hwf
    obtain ⟨hd, he⟩ := hwf
    rw [encode, decode_wire, decodeWireByte_data hd he]
  | hdrReply cmd len flags A => exact congrArg Decoded.op (decodeHdrIn_reply hwf cmd len A)
  | hdrPeerSync cmd len flags A =>
    simp only [Instr.wf, Bool.and_eq_true, Bool.not_eq_true'] at hwf
    obtain ⟨hresp, hsync⟩ := hwf
    exact congrArg Decoded.op (decodeHdrIn_peerSync hresp hsync cmd len A)
  | hdrPeerNosync cmd len flags A =>
    simp only [Instr.wf, Bool.and_eq_true, Bool.not_eq_true'] at hwf
    obtain ⟨hresp, hsync⟩ := hwf
    exact congrArg Decoded.op (decodeHdrIn_peerNosync hresp hsync cmd len A)
  | hdrCommandOut cmd len y s =>
    show decodeHdrOut cmd len (commandWordFlags y s) = _
    rw [decodeHdrOut, if_pos (isCommandFlags_commandWordFlags y s), syncOf_commandWordFlags, seqOf_commandWordFlags]
  | hdrAckOut cmd s =>
    show decodeHdrOut cmd 0 (ackWordFlags s) = _
    simp [decodeHdrOut, isCommandFlags_ackWordFlags, isAckFlags_ackWordFlags, seqOf_ackWordFlags, Decoded.require]
  | crcStep v b => rfl
  | rxOpen => exact decodeDelimRow_eq_op.mpr ⟨rfl, rfl⟩
  | rxAdd b => exact require_eq_op.mpr ⟨hwf, rfl⟩
  | rxAbort d => rfl
  | rxClose => exact decodeDelimRow_eq_op.mpr ⟨rfl, rfl⟩
  | txOpen => exact decodeDelimRow_eq_op.mpr ⟨rfl, rfl⟩
  | txWrite u => rfl
  | txClose => exact decodeDelimRow_eq_op.mpr ⟨rfl, rfl⟩
  | sendCommand cmd y s extra A e =>
    simp only [Instr.wf, Bool.and_eq_true, decide_eq_true_eq] at hwf
    obtain ⟨hA, he⟩ := hwf
    simp only [decode, encode, decodeSendCommand]
    refine decodeHeaderRow_eq_op.mpr ⟨cmd, commandWordFlags y s, A, rfl, hA, ?_⟩
    rw [if_pos (isCommandFlags_commandWordFlags y s), syncOf_commandWordFlags, seqOf_commandWordFlags]
    exact require_eq_op.mpr ⟨decide_eq_true he, rfl⟩
  | frameReceived P => exact require_eq_op.mpr ⟨hwf, rfl⟩
  | replyPath cmd x A =>
    simp only [decode, encode, decodeNoOperands, decodeBare]
    refine decodeHeaderRow_eq_op.mpr ⟨cmd, (x.setWidth 8 <<< 1) ||| 1, A, rfl, of_decide_eq_true hwf, ?_⟩
    rw [replyFlags_extract]
    exact require_eq_op.mpr ⟨replyFlags_response x, rfl⟩
  | peerPath cmd flags A =>
    simp only [Instr.wf, Bool.and_eq_true, decide_eq_true_eq] at hwf
    obtain ⟨hflags, hA⟩ := hwf
    simp only [decode, encode, decodeNoOperands, decodeBare]
    exact decodeHeaderRow_eq_op.mpr ⟨cmd, flags, A, rfl, hA, require_eq_op.mpr ⟨hflags, rfl⟩⟩
  | sendAck cmd s =>
    show Decoded.require (isAckFlags (ackWordFlags s)) .flagBits (.sendAck cmd (seqOf (ackWordFlags s))) = _
    rw [seqOf_ackWordFlags]
    exact require_eq_op.mpr ⟨isAckFlags_ackWordFlags s, rfl⟩
  | replyHandle e cmd rc R =>
    simp only [Instr.wf, Bool.and_eq_true, decide_eq_true_eq] at hwf
    obtain ⟨he, hR⟩ := hwf
    exact (if_pos hR).trans (require_eq_op.mpr ⟨decide_eq_true he, rfl⟩)
  | notifDecode cmd A => exact require_eq_op.mpr ⟨hwf, rfl⟩

/-! ### Encoding a decoded transaction, port by port -/

/-- The transaction `t` spells the operation `i`: `i` is well formed and `t` is its encoding. -/
def Spells (p : Params) (t : Txn) (i : Instr) : Prop := i.wf p = true ∧ encode p i = t

theorem spells_of_decodeHost {p : Params} {bs : List Byte} {o : Operands} {i : Instr} (h : decodeHost bs o = .op i) :
    Spells p ⟨.host, bs, o⟩ i := by
  unfold decodeHost at h
  split at h
  · cases h
  · rename_i op rest
    split at h
    · obtain ⟨b, rfl, h⟩ := decodeByteRow_eq_op.mp h
      obtain ⟨rfl, ⟨⟩⟩ := decodeNoOperands_eq_op.mp h
      subst op
      exact ⟨rfl, rfl⟩
    · split at h
      · rename_i hrest
        obtain rfl := List.isEmpty_iff.mp hrest
        unfold decodeHostBare at h
        split at h
        · subst op
          cases o <;> cases h
          exact ⟨rfl, rfl⟩
        · split at h
          · obtain ⟨rfl, ⟨⟩⟩ := decodeNoOperands_eq_op.mp h
            subst op
            exact ⟨rfl, rfl⟩
          · split at h
            · obtain ⟨rfl, ⟨⟩⟩ := decodeNoOperands_eq_op.mp h
              subst op
              exact ⟨rfl, rfl⟩
            · cases h
      · cases h

theorem spells_of_decodeCrcStep {p : Params} {bs : List Byte} {o : Operands} {i : Instr}
    (h : decodeCrcStep bs o = .op i) : Spells p ⟨.crcStep, bs, o⟩ i := by
  unfold decodeCrcStep at h
  split at h
  · obtain ⟨b, rfl, ⟨⟩⟩ := decodeByteRow_eq_op.mp h
    exact ⟨rfl, rfl⟩
  · cases h

theorem spells_of_decodeSendCommand {p : Params} {bs : List Byte} {o : Operands} {i : Instr}
    (h : decodeSendCommand p bs o = .op i) : Spells p ⟨.sendCommand, bs, o⟩ i := by
  unfold decodeSendCommand at h
  split at h
  · obtain ⟨cmd, flags, A, rfl, hA, h⟩ := decodeHeaderRow_eq_op.mp h
    split at h
    · rename_i hflags
      obtain ⟨he, rfl⟩ := require_eq_op.mp h
      exact ⟨by simp [Instr.wf, hA, of_decide_eq_true he], by
        rw [encode, commandWordFlags_of_isCommandFlags flags hflags]⟩
    · cases h
  · cases h

theorem spells_of_decodeReplyHandle {p : Params} {bs : List Byte} {o : Operands} {i : Instr}
    (h : decodeReplyHandle p bs o = .op i) : Spells p ⟨.replyHandle, bs, o⟩ i := by
  unfold decodeReplyHandle at h
  split at h
  · split at h
    · cases h
    · split at h
      · rename_i hR
        obtain ⟨he, rfl⟩ := require_eq_op.mp h
        exact ⟨by simp [Instr.wf, hR, of_decide_eq_true he], rfl⟩
      · cases h
  · cases h

theorem spells_decodeWireByte (p : Params) (b : Byte) : Spells p ⟨.wire, [b], .none⟩ (decodeWireByte p b) := by
  by_cases hd : b = p.delim
  · rw [hd, decodeWireByte_delim]
    exact ⟨rfl, rfl⟩
  by_cases he : b = p.esc
  · rw [decodeWireByte, if_neg hd, if_pos he, he]
    exact ⟨rfl, rfl⟩
  · rw [decodeWireByte_data hd he]
    exact ⟨by simp [Instr.wf, hd, he], rfl⟩

theorem spells_decodeHdrIn (p : Params) (cmd len flags : Byte) (A : List Byte) :
    Spells p ⟨.hdrIn, cmd :: len :: flags :: A, .none⟩ (decodeHdrIn cmd len flags A) := by
  cases hr : flags.getLsbD 0 with
  | true =>
    rw [decodeHdrIn_reply hr]
    exact ⟨hr, rfl⟩
  | false =>
    cases hs : flags.getLsbD 3 with
    | true =>
      rw [decodeHdrIn_peerSync hr hs]
      exact ⟨by rw [Instr.wf, hr, hs]; rfl, rfl⟩
    | false =>
      rw [decodeHdrIn_peerNosync hr hs]
      exact ⟨by rw [Instr.wf, hr, hs]; rfl, rfl⟩

theorem spells_of_decodeHdrOut {p : Params} {cmd len flags : Byte} {i : Instr}
    (h : decodeHdrOut cmd len flags = .op i) : Spells p ⟨.hdrOut, [cmd, len, flags], .none⟩ i := by
  unfold decodeHdrOut at h
  split at h
  · rename_i hflags
    cases h
    exact ⟨rfl, by rw [encode, commandWordFlags_of_isCommandFlags flags hflags]⟩
  · split at h
    · rename_i hflags
      obtain ⟨hlen, rfl⟩ := require_eq_op.mp h
      exact ⟨rfl, by rw [encode, ackWordFlags_of_isAckFlags flags hflags, of_decide_eq_true hlen]⟩
    · cases h

/-- The ports whose transactions have no operands beside their bytes. -/
theorem spells_of_decodeBare {p : Params} {port : Port} {bs : List Byte} {i : Instr}
    (h : decodeBare p port bs = .op i) : Spells p ⟨port, bs, .none⟩ i := by
  cases port with
  | host => cases h
  | crcStep => cases h
  | sendCommand => cases h
  | replyHandle => cases h
  | wire =>
    obtain ⟨b, rfl, ⟨⟩⟩ := decodeByteRow_eq_op.mp h
    exact spells_decodeWireByte p b
  | hdrIn =>
    simp only [decodeBare] at h
    split at h
    · cases h
      exact spells_decodeHdrIn p _ _ _ _
    · cases h
  | hdrOut =>
    simp only [decodeBare] at h
    split at h
    · exact spells_of_decodeHdrOut h
    · cases h
  | rxOpen =>
    obtain ⟨rfl, rfl⟩ := decodeDelimRow_eq_op.mp h
    exact ⟨rfl, rfl⟩
  | rxAdd =>
    obtain ⟨b, rfl, h⟩ := decodeByteRow_eq_op.mp h
    obtain ⟨hb, rfl⟩ := require_eq_op.mp h
    exact ⟨hb, rfl⟩
  | rxAbort =>
    obtain ⟨b, rfl, ⟨⟩⟩ := decodeByteRow_eq_op.mp h
    exact ⟨rfl, rfl⟩
  | rxClose =>
    obtain ⟨rfl, rfl⟩ := decodeDelimRow_eq_op.mp h
    exact ⟨rfl, rfl⟩
  | txOpen =>
    obtain ⟨rfl, rfl⟩ := decodeDelimRow_eq_op.mp h
    exact ⟨rfl, rfl⟩
  | txWrite =>
    obtain ⟨b, rfl, ⟨⟩⟩ := decodeByteRow_eq_op.mp h
    exact ⟨rfl, rfl⟩
  | txClose =>
    obtain ⟨rfl, rfl⟩ := decodeDelimRow_eq_op.mp h
    exact ⟨rfl, rfl⟩
  | frameReceived =>
    obtain ⟨hP, rfl⟩ := require_eq_op.mp h
    exact ⟨hP, rfl⟩
  | replyPath =>
    obtain ⟨cmd, flags, A, rfl, hA, h⟩ := decodeHeaderRow_eq_op.mp h
    obtain ⟨hflags, rfl⟩ := require_eq_op.mp h
    exact ⟨decide_eq_true hA, by rw [encode, replyFlags_of_response flags hflags]⟩
  | peerPath =>
    obtain ⟨cmd, flags, A, rfl, hA, h⟩ := decodeHeaderRow_eq_op.mp h
    obtain ⟨hflags, rfl⟩ := require_eq_op.mp h
    exact ⟨by rw [Instr.wf, hflags, decide_eq_true hA]; rfl, rfl⟩
  | sendAck =>
    simp only [decodeBare] at h
    split at h
    · split at h
      · obtain ⟨hflags, rfl⟩ := require_eq_op.mp h
        subst_vars
        exact ⟨rfl, by rw [encode, ackWordFlags_of_isAckFlags _ hflags]⟩
      · cases h
    · cases h
  | notifDecode =>
    simp only [decodeBare] at h
    split at h
    · obtain ⟨hA, rfl⟩ := require_eq_op.mp h
      exact ⟨hA, rfl⟩
    · cases h

theorem spells_of_decode {p : Params} {t : Txn} {i : Instr} (h : decode p t = .op i) : Spells p t i := by
  obtain ⟨port, bs, o⟩ := t
  unfold decode at h
  split at h
  · obtain rfl : port = .host := ‹_›
    exact spells_of_decodeHost h
  · obtain rfl : port = .crcStep := ‹_›
    exact spells_of_decodeCrcStep h
  · obtain rfl : port = .sendCommand := ‹_›
    exact spells_of_decodeSendCommand h
  · obtain rfl : port = .replyHandle := ‹_›
    exact spells_of_decodeReplyHandle h
  · obtain ⟨rfl, h⟩ := decodeNoOperands_eq_op.mp h
    exact spells_of_decodeBare h

/-- Settles O2. -/
theorem encodeOfDecode : Obligations.EncodeOfDecode := fun _ _ _ h => spells_of_decode h

/-- Settles O3: each of the eight words, evaluated. -/
theorem decodeTableWords : Obligations.DecodeTableWords := by
  refine ⟨?_, ?_, ?_, ?_, ?_, ?_, ?_, ?_⟩ <;> decide

end Sys2Proof.Machine

/-! What an operation can do to its link, said once for every row of the table: to the framer's registers, and to
everything else. The whole-machine rules (R28, R38, R59, R142, R178, R224) read it case by case. -/

namespace Sys2Proof.Machine

/-! ### The reply store apart from the buffer (R50 to R52) -/

/-- Reply records by strictly rising handle, each typed: the part of `Memory.wf` about the records. -/
def RepliesOk (rs : List (Nat × Record)) : Prop := handlesRise rs = true ∧ ∀ x ∈ rs, x.2.ok = true

theorem Memory.wf_iff_repliesOk {p : Params} {l : Link} :
    Memory.wf p l = true ↔ l.rxBuf.length = p.rxCap ∧ l.rxFill ≤ p.rxCap ∧ RepliesOk l.replies := Memory.wf_iff

theorem RepliesOk.put {rs : List (Nat × Record)} (h : RepliesOk rs) (d : Nat) {r : Record} (hr : r.ok = true) :
    RepliesOk (putReply rs d r) := by
  obtain ⟨hrise, hok⟩ := h
  refine ⟨putReply_handlesRise hrise d r, fun x hx => ?_⟩
  obtain rfl | hx := mem_putReply hx
  · exact hr
  · exact hok x hx

/-! ### The effects -/

/-- `l` with the framer's receive registers (R21 to R26) of `m`. -/
def Link.withFramer (l m : Link) : Link :=
  { l with rxState := m.rxState, rxEsc := m.rxEsc, rxCrc := m.rxCrc, rxBuf := m.rxBuf, rxFill := m.rxFill
           rxLastDelim := m.rxLastDelim }

/-- What REPLY_HANDLE leaves of `l` (R174 to R178): a dropped reply, or the pending command completed. -/
inductive ReplyEffect (l : Link) : Link → Prop
  | dropped (ds : List Discard) : ReplyEffect l { l with discards := ds }
  | completed (rs : List (Nat × Record)) (hbusy : l.busy = true) (hok : RepliesOk l.replies → RepliesOk rs) :
      ReplyEffect l { l with replies := rs, ev := l.ev ++ [.replyReady l.slotCmdId], busy := false }

/-- What the receive and transmit paths leave of `l`, the framer's registers apart: new contents of the receive state,
the notification record, the running CRC and the traces, with more output and at most a notification's event; or a
reply's effect, for which a registration is spent (R145). -/
inductive Effect (l : Link) : Link → Prop
  | plain (q : Bit) (n : Option NotifRec) (v w : Crc) (tx : List TxOut) (ev : List Event) (ds : List Discard)
      (htx : l.tx <+: tx) (hev : ev = l.ev ∨ ∃ cmd m, ev = l.ev ++ [.notifReady cmd m]) :
      Effect l { l with rxSeq := q, notifRec := n, txCrc := v, crcOut := w, tx := tx, ev := ev, discards := ds }
  | reply {t : Link} (hreg : l.regValid = true) (h : ReplyEffect { l with regValid := false } t) : Effect l t

/-- Where the framer's registers of the link `t` come from, after the operation `i` on `l`. -/
inductive FramerStep (p : Params) (i : Instr) (l t : Link) : Prop
  | kept (h : t = t.withFramer l)
  | opened (h : t = t.withFramer (rxOpen p l))
  | shut (h : t = t.withFramer (rxShut l))
  | added (b : Byte) (hi : i = .rxAdd b) (h : t = t.withFramer (rxAdd p b l))
  | aborted (d : Byte) (hi : i = .rxAbort d) (h : t = t.withFramer (rxAbort l))
  | received (b : Byte) (h : rxByte p b l = .next t)

/-- What one operation does to the link it runs on; `n` is the count of draws. -/
inductive LinkStep (p : Params) (n : Nat) (l t : Link) : Instr → Prop
  | invoke {e : Nat} {args : List Value} {dst : Nat} (h : invoke p e args dst l = .next t) :
      LinkStep p n l t (.invoke e args dst)
  | sendCommand {cmd : Byte} {y q : Bit} {x : Byte} {A : List Byte} {e : Nat} (h : t = sendFrame p cmd x A e l) :
      LinkStep p n l t (.sendCommand cmd y q x A e)
  | cancel (h : t = cancel l) : LinkStep p n l t .cancel
  | reset (h : t = resetLink p n l) : LinkStep p n l t .reset
  | replyHandle {e : Nat} {cmd rc : Byte} {R : List Byte} (h : ReplyEffect l t) :
      LinkStep p n l t (.replyHandle e cmd rc R)
  | other {i : Instr} (h : Effect l (t.withFramer l)) (hf : FramerStep p i l t) : LinkStep p n l t i

/-! ### Each procedure's effect -/

theorem Effect.discards (l : Link) (ds : List Discard) : Effect l { l with discards := ds } :=
  .plain _ _ _ _ _ _ _ List.prefix_rfl (.inl rfl)

theorem Effect.transmits (l : Link) (v : Crc) (out : List TxOut) :
    Effect l { l with txCrc := v, tx := l.tx ++ out } :=
  .plain _ _ _ _ _ _ _ (List.prefix_append _ _) (.inl rfl)

theorem Effect.withFramer_eq {l t : Link} (h : Effect l t) : t.withFramer l = t := by
  cases h with
  | plain => rfl
  | reply _ h => cases h <;> rfl

/-- No effect depends on the framer's registers. -/
theorem Effect.withFramer {l t : Link} (h : Effect l t) (m : Link) : Effect (l.withFramer m) (t.withFramer m) := by
  cases h with
  | plain q n v w tx ev ds htx hev => exact .plain q n v w tx ev ds htx hev
  | reply hreg h =>
    cases h with
    | dropped ds => exact .reply hreg (.dropped ds)
    | completed rs hbusy hok => exact .reply hreg (.completed rs hbusy hok)

/-- R177: the fields of a well-formed layout fit a reply of `minReply` bytes, so a completed reply's record is typed. -/
theorem completeReply_effect {p : Params} {C : CmdEntry} {rc : Byte} {R : List Byte} {l t : Link} (hC : C.ok = true)
    (hbusy : l.busy = true) (hlong : rc = p.rcOk → C.minReply ≤ R.length)
    (h : completeReply p C l.slotCmdId rc R l = .next t) : ReplyEffect l t := by
  obtain ⟨-, hfit, -⟩ := CmdEntry.ok_iff.mp hC
  obtain ⟨r, hr, r', hr', rfl⟩ := completeReply_cases h
  refine .completed _ hbusy fun hok => hok.put _ ?_
  obtain ⟨-, hall⟩ := hok
  have hrok : Record.ok { r with rc := some rc } = true := hall _ (mem_of_findReply hr)
  obtain ⟨hrc, hf, rfl⟩ | ⟨-, rfl⟩ := hr'
  · exact Record.writeAll_ok hrok hf fun f hf => (hfit f hf).trans (hlong hrc)
  · exact hrok

theorem replyHandle_effect {c : Config} {e : Nat} {cmd rc : Byte} {R : List Byte} {l t : Link}
    (h : replyHandle c.toParams e cmd rc R l = .next t) : ReplyEffect l t := by
  obtain ⟨d, rfl⟩ | ⟨hbusy, rfl, C, hC, -, hlong, h⟩ := replyHandle_cases h
  · exact .dropped _
  · obtain ⟨hcat, -⟩ := c.catalog_facts
    exact completeReply_effect (hcat C (List.mem_of_getElem? hC)) hbusy hlong h

theorem replyPath_effect {c : Config} {cmd : Byte} {A : List Byte} {l t : Link}
    (h : replyPath c.toParams cmd A l = .next t) : Effect l t := by
  obtain ⟨d, rfl⟩ | ⟨hreg, -, rc, R, -, h⟩ := replyPath_cases h
  · exact .discards _ _
  · exact .reply hreg (replyHandle_effect h)

theorem txWrites_effect (p : Params) (us : List Byte) (l : Link) : Effect l (txWrites p us l) := by
  rw [txWrites_eq]
  exact .transmits _ _ _

theorem txClose_effect (p : Params) (l : Link) : Effect l (txClose p l) := by
  rw [txClose_eq, List.append_assoc]
  exact .transmits _ _ _

theorem sendAck_effect (p : Params) (cmd : Byte) (l : Link) : Effect l (sendAck p cmd l) := by
  rw [sendAck_eq]
  exact .transmits _ _ _

theorem notifDecode_effect (p : Params) (cmd : Byte) (A : List Byte) (l : Link) :
    Effect l (notifDecode p cmd A l) := by
  obtain ⟨d, h⟩ | ⟨N, -, -, -, -, h⟩ := notifDecode_cases p cmd A l <;> rw [h]
  · exact .discards _ _
  · exact .plain _ _ _ _ _ _ _ List.prefix_rfl (.inr ⟨_, _, rfl⟩)

theorem peerPath_effect (p : Params) (cmd flags : Byte) (A : List Byte) (l : Link) :
    Effect l (peerPath p cmd flags A l) := by
  obtain ⟨q, n, v, out, ev, ds, h, hev⟩ := peerPath_cases p cmd flags A l
  rw [h]
  refine .plain _ _ _ _ _ _ _ (List.prefix_append _ _) ?_
  obtain rfl | rfl := hev
  · exact .inl (List.append_nil _)
  · exact .inr ⟨_, _, rfl⟩

theorem frameReceived_effect {c : Config} {P : List Byte} {l t : Link}
    (h : frameReceived c.toParams P l = .next t) : Effect l t := by
  obtain ⟨d, rfl⟩ | ⟨cmd, A, h⟩ | ⟨cmd, flags, A, rfl⟩ := frameReceived_cases h
  · exact .discards _ _
  · exact replyPath_effect h
  · exact peerPath_effect _ _ _ _ _

/-- R107: RX_CLOSE shuts the framer, and what it delivers has its effect on the rest. -/
theorem rxClose_effect {c : Config} {l t : Link} (h : rxClose c.toParams l = .next t) :
    Effect l (t.withFramer l) ∧ t = t.withFramer (rxShut l) := by
  obtain ⟨d, rfl⟩ | h := rxClose_next h
  · exact ⟨.discards _ _, rfl⟩
  · have heff := frameReceived_effect h
    exact ⟨heff.withFramer l, heff.withFramer_eq.symm⟩

/-- RX_ADD writes only the framer's registers and the trace (R105, R106). -/
theorem rxAdd_withFramer (p : Params) (b : Byte) (l m : Link) :
    (rxAdd p b l).withFramer m = { l.withFramer m with discards := (rxAdd p b l).discards } := by
  by_cases he : b = p.esc
  · rw [rxAdd_of_esc he]
    rfl
  · rw [rxAdd_of_ne_esc he]
    obtain ⟨-, h⟩ | ⟨-, h⟩ := rxStore_cases p (if l.rxEsc then b ^^^ p.mask else b) { l with rxEsc := false } <;>
      (rw [h]; rfl)

theorem rxAdd_effect (p : Params) (b : Byte) (l : Link) : Effect l ((rxAdd p b l).withFramer l) := by
  rw [rxAdd_withFramer]
  exact .discards _ _

/-- R103: whichever arm RX_BYTE takes. -/
theorem rxByte_effect {c : Config} {b : Byte} {l t : Link} (h : rxByte c.toParams b l = .next t) :
    Effect l (t.withFramer l) := by
  obtain ⟨u, rfl, ⟨-, rfl | ⟨-, rfl⟩⟩ | ⟨-, ⟨-, rfl⟩ | ⟨-, h⟩⟩⟩ := rxByte_cases h
  · exact .discards _ _
  · have hadd := rxAdd_withFramer c.toParams b (rxOpen c.toParams l) l
    exact (congrArg (Effect l) hadd).mpr (.discards _ _)
  · exact rxAdd_effect _ _ _
  · obtain ⟨heff, -⟩ := rxClose_effect h
    exact heff

/-! ### Every operation -/

theorem Effect.linkStep {p : Params} {n : Nat} {l t : Link} (h : Effect l t) (i : Instr) : LinkStep p n l t i :=
  .other (by rwa [h.withFramer_eq]) (.kept h.withFramer_eq.symm)

theorem sendCommand_next {p : Params} {cmd extraFlags : Byte} {A : List Byte} {e : Nat} {l t : Link}
    (h : sendCommand p cmd extraFlags A e l = .next t) : t = sendFrame p cmd extraFlags A e l := by
  unfold sendCommand at h
  split at h <;> cases h
  rfl

/-- Every operation that answers a next state did one `LinkStep` to the addressed link. -/
theorem exec_linkStep {s t : State} {i : Instr} (h : exec i s = .next t) :
    LinkStep s.cfg.toParams s.draws s.link t.link i := by
  cases i with
  | rxByte b =>
    obtain ⟨l, hl, rfl⟩ := State.lift_eq_next h
    exact .other (rxByte_effect hl) (.received b hl)
  | invoke e args dst =>
    obtain ⟨l, hl, rfl⟩ := State.lift_eq_next h
    exact .invoke hl
  | cancel =>
    cases h
    exact .cancel rfl
  | reset =>
    cases h
    exact .reset rfl
  | wireDelim =>
    obtain ⟨l, hl, rfl⟩ := State.lift_eq_next h
    exact .other (rxByte_effect hl) (.received _ hl)
  | wireEsc =>
    obtain ⟨l, hl, rfl⟩ := State.lift_eq_next h
    exact .other (rxByte_effect hl) (.received _ hl)
  | wireData d =>
    obtain ⟨l, hl, rfl⟩ := State.lift_eq_next h
    exact .other (rxByte_effect hl) (.received d hl)
  | hdrReply cmd len flags A =>
    obtain ⟨l, hl, rfl⟩ := State.lift_eq_next h
    exact (frameReceived_effect hl).linkStep _
  | hdrPeerSync cmd len flags A =>
    obtain ⟨l, hl, rfl⟩ := State.lift_eq_next h
    exact (frameReceived_effect hl).linkStep _
  | hdrPeerNosync cmd len flags A =>
    obtain ⟨l, hl, rfl⟩ := State.lift_eq_next h
    exact (frameReceived_effect hl).linkStep _
  | hdrCommandOut cmd len y q =>
    cases h
    exact (txWrites_effect _ _ s.link).linkStep _
  | hdrAckOut cmd q =>
    cases h
    exact (txWrites_effect _ _ s.link).linkStep _
  | crcStep v b =>
    cases h
    exact Effect.linkStep (.plain _ _ _ _ _ _ _ List.prefix_rfl (.inl rfl)) _
  | rxOpen =>
    cases h
    exact .other (.discards _ _) (.opened rfl)
  | rxAdd b =>
    cases h
    exact .other (rxAdd_effect _ b s.link) (.added b rfl rfl)
  | rxAbort d =>
    cases h
    exact .other (.discards _ _) (.aborted d rfl rfl)
  | rxClose =>
    obtain ⟨l, hl, rfl⟩ := State.lift_eq_next h
    obtain ⟨heff, hf⟩ := rxClose_effect hl
    exact .other heff (.shut hf)
  | txOpen =>
    cases h
    exact (Effect.transmits s.link _ _).linkStep _
  | txWrite u =>
    cases h
    exact (Effect.transmits s.link _ _).linkStep _
  | txClose =>
    cases h
    exact (txClose_effect _ s.link).linkStep _
  | sendCommand cmd y q x A e =>
    obtain ⟨l, hl, rfl⟩ := State.lift_eq_next h
    exact .sendCommand (sendCommand_next hl)
  | frameReceived P =>
    obtain ⟨l, hl, rfl⟩ := State.lift_eq_next h
    exact (frameReceived_effect hl).linkStep _
  | replyPath cmd x A =>
    obtain ⟨l, hl, rfl⟩ := State.lift_eq_next h
    exact (replyPath_effect hl).linkStep _
  | peerPath cmd flags A =>
    cases h
    exact (peerPath_effect _ cmd flags A s.link).linkStep _
  | sendAck cmd q =>
    cases h
    exact (sendAck_effect _ cmd s.link).linkStep _
  | replyHandle e cmd rc R =>
    obtain ⟨l, hl, rfl⟩ := State.lift_eq_next h
    exact .replyHandle (replyHandle_effect hl)
  | notifDecode cmd A =>
    cases h
    exact (notifDecode_effect _ cmd A s.link).linkStep _

end Sys2Proof.Machine

/-! The whole-machine rules, each read off `LinkStep`: who writes the send state (R142), what the outputs do (R13, R59,
R224), what ends a command (R178) and how long the stall state lasts (R38). -/

namespace Sys2Proof.Machine

/-! ### The send state (R28, R142, R149) -/

theorem ReplyEffect.sendState {l t : Link} (h : ReplyEffect l t) : t.txSeq = l.txSeq ∧ t.txFirst = l.txFirst := by
  cases h <;> exact ⟨rfl, rfl⟩

theorem Effect.sendState {l t : Link} (h : Effect l t) : t.txSeq = l.txSeq ∧ t.txFirst = l.txFirst := by
  cases h with
  | plain => exact ⟨rfl, rfl⟩
  | reply _ h => exact h.sendState (l := { l with regValid := false })

/-- Settles O32. -/
theorem onlySendCommandWritesTxSeq : Obligations.OnlySendCommandWritesTxSeq := by
  intro s t i h hinvoke hsend hreset
  cases exec_linkStep h with
  | invoke => exact absurd rfl (hinvoke _ _ _)
  | sendCommand => exact absurd rfl (hsend _ _ _ _ _ _)
  | cancel hl =>
    rw [hl]
    exact ⟨rfl, rfl⟩
  | reset => exact absurd rfl hreset
  | replyHandle hl => exact hl.sendState
  | other hl => exact hl.sendState

/-! ### The outputs (R13, R59, R224) -/

/-- `t` has every output of `l`, in order, and perhaps more. -/
def OutputsExtend (l t : Link) : Prop := l.tx <+: t.tx ∧ l.ev <+: t.ev ∧ l.statuses <+: t.statuses

theorem ReplyEffect.outputsExtend {l t : Link} (h : ReplyEffect l t) : OutputsExtend l t := by
  cases h with
  | dropped => exact ⟨List.prefix_rfl, List.prefix_rfl, List.prefix_rfl⟩
  | completed => exact ⟨List.prefix_rfl, List.prefix_append _ _, List.prefix_rfl⟩

theorem Effect.outputsExtend {l t : Link} (h : Effect l t) : OutputsExtend l t := by
  cases h with
  | plain q n v w tx ev ds htx hev =>
    refine ⟨htx, ?_, List.prefix_rfl⟩
    obtain rfl | ⟨cmd, m, rfl⟩ := hev
    · exact List.prefix_rfl
    · exact List.prefix_append _ _
  | reply _ h => exact h.outputsExtend (l := { l with regValid := false })

/-- R140: a command's frame is all that SEND_COMMAND emits. -/
theorem sendFrame_outputsExtend (p : Params) (cmd x : Byte) (A : List Byte) (e : Nat) (l : Link) :
    OutputsExtend l (sendFrame p cmd x A e l) := by
  rw [sendFrame_eq]
  exact ⟨List.prefix_append _ _, List.prefix_rfl, List.prefix_rfl⟩

/-- R59: what INVOKE emits: Busy alone, or the request's frame and Ok. -/
theorem invoke_outputs {p : Params} {e dst : Nat} {args : List Value} {l t : Link}
    (h : invoke p e args dst l = .next t) : t.ev = l.ev ∧
    ((t.statuses = l.statuses ++ [.busy] ∧ l.busy = true ∧ t.tx = l.tx) ∨
     (t.statuses = l.statuses ++ [.ok] ∧ l.busy = false ∧ ∃ P, t.tx = l.tx ++ frameOut p P)) := by
  obtain ⟨C, -, -, ⟨hbusy, rfl⟩ | ⟨hbusy, rfl⟩⟩ := invoke_cases h
  · exact ⟨rfl, .inl ⟨rfl, hbusy, rfl⟩⟩
  · rw [sendFrame_eq]
    exact ⟨rfl, .inr ⟨rfl, hbusy, _, rfl⟩⟩

/-- Settles O58. -/
theorem hostTransactionOutputs : Obligations.HostTransactionOutputs := by
  refine ⟨fun s t e dst args h => ?invoke, ?bare⟩
  case invoke =>
    obtain ⟨l, hl, rfl⟩ := State.lift_eq_next h
    exact invoke_outputs hl
  case bare => rintro s t i (rfl | rfl) h <;> cases h <;> exact ⟨rfl, rfl, rfl⟩

/-- Settles O57. -/
theorem outputsOnlyGrow : Obligations.OutputsOnlyGrow := by
  intro s t i h
  show OutputsExtend s.link t.link
  cases exec_linkStep h with
  | invoke hl =>
    obtain ⟨hev, ⟨hst, -, htx⟩ | ⟨hst, -, P, htx⟩⟩ := invoke_outputs hl
    · exact ⟨by rw [htx], by rw [hev], by rw [hst]; exact List.prefix_append _ _⟩
    · exact ⟨by rw [htx]; exact List.prefix_append _ _, by rw [hev], by rw [hst]; exact List.prefix_append _ _⟩
  | sendCommand hl =>
    rw [hl]
    exact sendFrame_outputsExtend _ _ _ _ _ _
  | cancel hl =>
    rw [hl]
    exact ⟨List.prefix_rfl, List.prefix_rfl, List.prefix_rfl⟩
  | reset hl =>
    rw [hl]
    exact ⟨List.prefix_rfl, List.prefix_rfl, List.prefix_rfl⟩
  | replyHandle hl => exact hl.outputsExtend
  | other hl => exact hl.outputsExtend

/-- R182, R178: an effect is announced by at most one event. -/
theorem Effect.oneEvent {l t : Link} (h : Effect l t) : t.ev = l.ev ∨ ∃ e, t.ev = l.ev ++ [e] := by
  cases h with
  | plain q n v w tx ev ds htx hev =>
    obtain rfl | ⟨cmd, m, rfl⟩ := hev
    · exact .inl rfl
    · exact .inr ⟨_, rfl⟩
  | reply _ h =>
    cases h with
    | dropped => exact .inl rfl
    | completed => exact .inr ⟨_, rfl⟩

/-- Settles O56. -/
theorem atMostOneEventPerByte : Obligations.AtMostOneEventPerByte := by
  intro s t b h
  obtain ⟨l, hl, rfl⟩ := State.lift_eq_next h
  exact (rxByte_effect hl).oneEvent

/-! ### The end of a command (R178) -/

theorem ReplyEffect.busy_cleared {l t : Link} (h : ReplyEffect l t) (hl : l.busy = true) (ht : t.busy = false) :
    t.ev = l.ev ++ [.replyReady l.slotCmdId] := by
  cases h with
  | dropped => exact absurd (hl.symm.trans ht) Bool.noConfusion
  | completed => rfl

theorem Effect.busy_cleared {l t : Link} (h : Effect l t) (hl : l.busy = true) (ht : t.busy = false) :
    t.ev = l.ev ++ [.replyReady l.slotCmdId] := by
  cases h with
  | plain => exact absurd (hl.symm.trans ht) Bool.noConfusion
  | reply _ h => exact h.busy_cleared (l := { l with regValid := false }) hl ht

/-- R171: while a command is outstanding INVOKE answers Busy and does nothing else. -/
theorem invoke_next_of_busy {p : Params} {e dst : Nat} {args : List Value} {l t : Link} (hl : l.busy = true)
    (h : invoke p e args dst l = .next t) : t = l.answer .busy := by
  obtain ⟨C, -, -, ⟨-, rfl⟩ | ⟨hidle, -⟩⟩ := invoke_cases h
  · rfl
  · exact absurd (hl.symm.trans hidle) Bool.noConfusion

/-- Settles O51. -/
theorem onlyCompletionClearsBusy : Obligations.OnlyCompletionClearsBusy := by
  intro s t i h hbusy hclear
  cases exec_linkStep h with
  | invoke hl =>
    rw [invoke_next_of_busy hbusy hl] at hclear
    exact absurd (hbusy.symm.trans hclear) Bool.noConfusion
  | sendCommand hl =>
    rw [hl, sendFrame_eq] at hclear
    exact absurd (hbusy.symm.trans hclear) Bool.noConfusion
  | cancel => exact .inl rfl
  | reset => exact .inr (.inl rfl)
  | replyHandle hl => exact .inr (.inr (hl.busy_cleared hbusy hclear))
  | other hl => exact .inr (.inr (hl.busy_cleared hbusy hclear))

/-! ### The stall state (R38) -/

/-- What the stall state keeps from `l` to `t`: itself, the reply records, and every command's completions. -/
def StallKept (l t : Link) : Prop :=
  t.stalled ∧ t.replies = l.replies ∧ ∀ cmd, t.ev.count (.replyReady cmd) = l.ev.count (.replyReady cmd)

theorem StallKept.trans {l u t : Link} (h : StallKept l u) (h' : StallKept u t) : StallKept l t := by
  obtain ⟨-, hrep, hev⟩ := h
  obtain ⟨hstall, hrep', hev'⟩ := h'
  exact ⟨hstall, hrep'.trans hrep, fun cmd => (hev' cmd).trans (hev cmd)⟩

/-- With no registration no reply gets through, and a notification's event completes nothing. -/
theorem Effect.stallKept {l t : Link} (h : Effect l t) (hl : l.stalled) : StallKept l t := by
  cases h with
  | plain q n v w tx ev ds htx hev =>
    refine ⟨hl, rfl, fun cmd => ?_⟩
    obtain rfl | ⟨cmd', m, rfl⟩ := hev
    · rfl
    · exact List.count_append.trans (by simp)
  | reply hreg =>
    obtain ⟨-, hnone⟩ := hl
    exact absurd (hreg.symm.trans hnone) Bool.noConfusion

theorem exec_stallKept {s t : State} {i : Instr} (hi : isTraffic i = true) (hs : s.link.stalled)
    (h : exec i s = .next t) : StallKept s.link t.link := by
  cases exec_linkStep h with
  | invoke hl =>
    have ⟨hbusy, _⟩ := hs
    rw [invoke_next_of_busy hbusy hl]
    exact ⟨hs, rfl, fun _ => rfl⟩
  | sendCommand => cases hi
  | cancel => cases hi
  | reset => cases hi
  | replyHandle => cases hi
  | other hl => exact hl.stallKept hs

/-- Settles O50, by induction on the run. -/
theorem stallLastsUntilCancelOrReset : Obligations.StallLastsUntilCancelOrReset := by
  intro is
  induction is with
  | nil =>
    intro s t hs _ h
    cases h
    exact ⟨hs, rfl, fun _ => rfl⟩
  | cons i is ih =>
    intro s t hs his h
    obtain ⟨hi, his⟩ := List.forall_mem_cons.mp his
    obtain ⟨u, hu, ht⟩ := andThen_eq_next h
    have hkept := exec_stallKept hi hs hu
    have ⟨hstalled, _⟩ := hkept
    exact hkept.trans (ih u t hstalled his ht)

end Sys2Proof.Machine

/-! The invariants (10_state.md R37, 20_memory.md R25, R51, R52): every step keeps each link's storage well formed, and
every step that is no inner procedure by itself keeps the invariant of R37. First a step's frame: the links the item
does not address (R67). -/

namespace Sys2Proof.Machine

/-! ### The frame of a step (R35, R67) -/

/-- A step replaces at most the addressed link. -/
theorem step_links {s t : State} (h : step s = .next t) :
    ∃ it rest l, s.script = it :: rest ∧ s.links[it.inst]? = some l ∧
      runItem it.act (s.atLink it.inst l rest) = .next t ∧ t.cfg = s.cfg ∧ t.script = rest ∧
      t.links = s.links.set it.inst t.link := by
  obtain ⟨it, rest, l, hs, hl, h⟩ := step_cases h
  obtain ⟨hcfg, hbefore, hafter, hscript⟩ := runItem_frame h
  refine ⟨it, rest, l, hs, hl, h, hcfg, hscript, ?_⟩
  obtain ⟨hk, -⟩ := List.getElem?_eq_some_iff.mp hl
  rw [List.set_eq_take_append_cons_drop, if_pos hk, State.links, hbefore, hafter]
  rfl

/-- Settles O6. -/
theorem stepLeavesOtherLinks : Obligations.StepLeavesOtherLinks := by
  intro s t it rest hs h
  obtain ⟨it', rest', l, hs', -, -, hcfg, hscript, hlinks⟩ := step_links h
  obtain ⟨rfl, rfl⟩ := List.cons_eq_cons.mp (hs.symm.trans hs')
  refine ⟨hcfg, hscript, ?_, fun k hk => ?_⟩ <;> rw [hlinks]
  · exact List.length_set
  · exact List.getElem?_set_ne hk.symm

/-- A property of every link is kept by a step that keeps it on the addressed link. -/
theorem step_forall_links {P : Params → Link → Prop} {s t : State} (h : step s = .next t)
    (hs : (∀ l ∈ s.links, P s.cfg.toParams l) ∧ s.links.length = s.cfg.nInst)
    (hrun : ∀ it ∈ s.script.head?, ∀ u : State, u.cfg = s.cfg → P s.cfg.toParams u.link → runItem it.act u = .next t →
      P s.cfg.toParams t.link) :
    (∀ l ∈ t.links, P t.cfg.toParams l) ∧ t.links.length = t.cfg.nInst := by
  obtain ⟨it, rest, l, hscript, hl, hitem, hcfg, -, hlinks⟩ := step_links h
  obtain ⟨hall, hlen⟩ := hs
  rw [hcfg, hlinks]
  refine ⟨fun m hm => ?_, List.length_set.trans hlen⟩
  obtain hm | rfl := List.mem_or_eq_of_mem_set hm
  · exact hall m hm
  · exact hrun it (by rw [hscript]; rfl) (s.atLink it.inst l rest) rfl (hall l (List.mem_of_getElem? hl)) hitem

/-! ### The framer's registers -/

/-- A receive buffer of `RX_CAP` bytes with a fill within it (R24, R25). -/
def Link.BufferOk (p : Params) (l : Link) : Prop := l.rxBuf.length = p.rxCap ∧ l.rxFill ≤ p.rxCap

theorem Memory.wf_iff_bufferOk {p : Params} {l : Link} : Memory.wf p l = true ↔ l.BufferOk p ∧ RepliesOk l.replies :=
  Memory.wf_iff_repliesOk.trans and_assoc.symm

theorem Link.BufferOk.of_withFramer {p : Params} {t m : Link} (h : t = t.withFramer m) (hm : m.BufferOk p) :
    t.BufferOk p := by
  rw [h]
  exact hm

theorem Link.framerInv.of_withFramer {p : Params} {t m : Link} (h : t = t.withFramer m) (hm : m.framerInv p) :
    t.framerInv p := by
  rw [h]
  exact hm

theorem rxOpen_bufferOk {p : Params} {l : Link} (h : l.BufferOk p) : (rxOpen p l).BufferOk p :=
  ⟨h.1, Nat.zero_le _⟩

theorem rxShut_bufferOk {p : Params} {l : Link} (h : l.BufferOk p) : (rxShut l).BufferOk p :=
  ⟨h.1, Nat.zero_le _⟩

theorem rxAdd_bufferOk {p : Params} {l : Link} (h : l.BufferOk p) (b : Byte) : (rxAdd p b l).BufferOk p := by
  obtain ⟨hlen, hfill⟩ := h
  by_cases he : b = p.esc
  · rw [rxAdd_of_esc he]
    exact ⟨hlen, hfill⟩
  · rw [rxAdd_of_ne_esc he]
    obtain ⟨-, h⟩ | ⟨hne, h⟩ := rxStore_cases p (if l.rxEsc then b ^^^ p.mask else b) { l with rxEsc := false } <;>
      rw [h]
    · exact ⟨hlen, Nat.zero_le _⟩
    · exact ⟨List.length_set.trans hlen, Nat.lt_of_le_of_ne hfill hne⟩

/-- R37(a) to (c): a byte added to an open frame leaves the frame open, or aborts it with no escape pending. -/
theorem rxAdd_framerInv {p : Params} {l : Link} (hopen : l.rxState = .receiving) (hfill : l.rxFill ≤ p.rxCap)
    (b : Byte) : (rxAdd p b l).framerInv p := by
  have hne : l.rxState ≠ .idle := hopen ▸ RxState.noConfusion
  by_cases he : b = p.esc
  · rw [rxAdd_of_esc he]
    exact ⟨fun h => absurd h hne, hfill, fun h => absurd h hne⟩
  · rw [rxAdd_of_ne_esc he]
    obtain ⟨-, h⟩ | ⟨hfull, h⟩ := rxStore_cases p (if l.rxEsc then b ^^^ p.mask else b) { l with rxEsc := false } <;>
      rw [h]
    · exact ⟨fun _ => rfl, Nat.zero_le _, fun _ => rfl⟩
    · exact ⟨fun h => absurd h hne, Nat.lt_of_le_of_ne hfill hfull, fun h => absurd h hne⟩

/-- Closing a frame leaves an idle framer with no escape pending and an empty buffer. -/
theorem rxShut_framerInv (p : Params) (l : Link) : (rxShut l).framerInv p :=
  ⟨fun _ => rfl, Nat.zero_le _, fun _ => rfl⟩

/-- An open frame has no idle framer to constrain. -/
theorem rxOpen_framerInv (p : Params) (l : Link) : (rxOpen p l).framerInv p :=
  ⟨RxState.noConfusion, Nat.zero_le _, RxState.noConfusion⟩

/-- R103: where the framer's registers of RX_BYTE come from. -/
theorem rxByte_framer {c : Config} {b : Byte} {l t : Link} (h : rxByte c.toParams b l = .next t) :
    ∃ m, t = t.withFramer { m with rxLastDelim := decide (b = c.delim) } ∧
      (m = l ∨ m = rxAdd c.toParams b (rxOpen c.toParams l) ∨
        (l.rxState = .receiving ∧ m = rxAdd c.toParams b l) ∨ m = rxShut l) := by
  obtain ⟨u, rfl, ⟨-, rfl | ⟨-, rfl⟩⟩ | ⟨hopen, ⟨-, rfl⟩ | ⟨-, h⟩⟩⟩ := rxByte_cases h
  · exact ⟨_, rfl, .inl rfl⟩
  · exact ⟨_, rfl, .inr (.inl rfl)⟩
  · exact ⟨_, rfl, .inr (.inr (.inl ⟨hopen, rfl⟩))⟩
  · obtain ⟨-, hshut⟩ := rxClose_effect h
    exact ⟨rxShut l, by rw [hshut]; rfl, .inr (.inr (.inr rfl))⟩

/-- R25, R37(b): every operation leaves the buffer its size and the fill within it. -/
theorem FramerStep.bufferOk {c : Config} {i : Instr} {l t : Link} (h : FramerStep c.toParams i l t)
    (hl : l.BufferOk c.toParams) : t.BufferOk c.toParams := by
  cases h with
  | kept h => exact .of_withFramer h hl
  | opened h => exact .of_withFramer h (rxOpen_bufferOk hl)
  | shut h => exact .of_withFramer h (rxShut_bufferOk hl)
  | added b _ h => exact .of_withFramer h (rxAdd_bufferOk hl b)
  | aborted _ _ h => exact .of_withFramer h ⟨hl.1, Nat.zero_le _⟩
  | received b h =>
    obtain ⟨m, ht, rfl | rfl | ⟨-, rfl⟩ | rfl⟩ := rxByte_framer h
    · exact .of_withFramer ht hl
    · exact .of_withFramer ht (rxAdd_bufferOk (rxOpen_bufferOk hl) b)
    · exact .of_withFramer ht (rxAdd_bufferOk hl b)
    · exact .of_withFramer ht (rxShut_bufferOk (l := l) hl)

/-- R37(a) to (c): every operation but RX_ADD and RX_ABORT by themselves. -/
theorem FramerStep.framerInv {c : Config} {i : Instr} {l t : Link} (h : FramerStep c.toParams i l t)
    (hadd : ∀ b, i ≠ .rxAdd b) (habort : ∀ d, i ≠ .rxAbort d) (hl : l.framerInv c.toParams) :
    t.framerInv c.toParams := by
  cases h with
  | kept h => exact .of_withFramer h hl
  | opened h => exact .of_withFramer h (rxOpen_framerInv _ _)
  | shut h => exact .of_withFramer h (rxShut_framerInv _ _)
  | added b hi => exact absurd hi (hadd b)
  | aborted d hi => exact absurd hi (habort d)
  | received b h =>
    obtain ⟨m, ht, rfl | rfl | ⟨hopen, rfl⟩ | rfl⟩ := rxByte_framer h
    · exact .of_withFramer ht hl
    · exact .of_withFramer ht (rxAdd_framerInv rfl (Nat.zero_le _) b)
    · obtain ⟨-, hfill, -⟩ := hl
      exact .of_withFramer ht (rxAdd_framerInv hopen hfill b)
    · exact .of_withFramer ht (rxShut_framerInv c.toParams l)

/-! ### The storage -/

theorem ReplyEffect.repliesOk {l t : Link} (h : ReplyEffect l t) (hl : RepliesOk l.replies) : RepliesOk t.replies := by
  cases h with
  | dropped => exact hl
  | completed rs _ hok => exact hok hl

theorem Effect.repliesOk {l t : Link} (h : Effect l t) (hl : RepliesOk l.replies) : RepliesOk t.replies := by
  cases h with
  | plain => exact hl
  | reply _ h => exact h.repliesOk hl

theorem ReplyEffect.bufferOk {p : Params} {l t : Link} (h : ReplyEffect l t) (hl : l.BufferOk p) : t.BufferOk p := by
  cases h <;> exact hl

/-- R25, R51, R52: every operation keeps the storage of its link well formed. -/
theorem LinkStep.wf {c : Config} {n : Nat} {i : Instr} {l t : Link} (h : LinkStep c.toParams n l t i)
    (hl : Memory.wf c.toParams l = true) : Memory.wf c.toParams t = true := by
  obtain ⟨hbuf, hrep⟩ := Memory.wf_iff_bufferOk.mp hl
  cases h with
  | invoke h =>
    obtain ⟨C, -, -, ⟨-, rfl⟩ | ⟨-, rfl⟩⟩ := invoke_cases h
    · exact hl
    · rw [sendFrame_eq]
      exact hl
  | sendCommand h =>
    rw [h, sendFrame_eq]
    exact hl
  | cancel h =>
    rw [h]
    exact hl
  | reset h =>
    rw [h]
    exact resetLink_wf hl n
  | replyHandle h => exact Memory.wf_iff_bufferOk.mpr ⟨h.bufferOk hbuf, h.repliesOk hrep⟩
  | other h hf => exact Memory.wf_iff_bufferOk.mpr ⟨hf.bufferOk hbuf, h.repliesOk hrep⟩

/-- An item that runs did a `LinkStep`, or a host access. -/
theorem runItem_cases {a : Act} {s t : State} (h : runItem a s = .next t) :
    (∃ x, a = .host x ∧ hostAccess x s.link = .next t.link) ∨
    ∃ x i, a = .txn x ∧ decode s.cfg.toParams x = .op i ∧ LinkStep s.cfg.toParams s.draws s.link t.link i := by
  cases a with
  | host x =>
    obtain ⟨l, hl, rfl⟩ := State.lift_eq_next h
    exact .inl ⟨x, rfl, hl⟩
  | txn x =>
    simp only [runItem] at h
    split at h
    · exact .inr ⟨x, _, rfl, ‹_›, exec_linkStep h⟩
    · cases h

theorem runItem_wf {a : Act} {s t : State} (h : runItem a s = .next t)
    (hs : Memory.wf s.cfg.toParams s.link = true) : Memory.wf s.cfg.toParams t.link = true := by
  obtain ⟨x, -, h⟩ | ⟨x, i, -, -, h⟩ := runItem_cases h
  · exact hostAccess_wf hs h
  · exact h.wf hs

/-- Settles O7. -/
theorem everyStepKeepsStorage : Obligations.EveryStepKeepsStorage := fun _ _ hs h =>
  step_forall_links (P := fun p l => Memory.wf p l = true) h hs fun _ _ _ hcfg hu hrun =>
    hcfg ▸ runItem_wf hrun (hcfg.symm ▸ hu)

/-! ### The registration and the pending slot (R37(d), R170, R172) -/

/-- What a command and its reply rely on: R37(d) and the pending slot. -/
def Link.PendingOk (p : Params) (l : Link) : Prop := l.regInv ∧ l.slotInv p

theorem Link.PendingOk.of_idle {p : Params} {l : Link} (h : l.busy = false) : l.PendingOk p :=
  ⟨fun hbusy => absurd (h.symm.trans hbusy) Bool.noConfusion, fun hbusy => absurd (h.symm.trans hbusy) Bool.noConfusion⟩

/-- R145: spending the registration keeps R37(d). -/
theorem Link.PendingOk.unregister {p : Params} {l : Link} (h : l.PendingOk p) :
    Link.PendingOk p { l with regValid := false } :=
  ⟨fun _ hreg => absurd hreg Bool.noConfusion, h.2⟩

theorem ReplyEffect.pendingOk {p : Params} {l t : Link} (h : ReplyEffect l t) (hl : l.PendingOk p) : t.PendingOk p := by
  cases h with
  | dropped => exact hl
  | completed => exact .of_idle rfl

theorem Effect.pendingOk {p : Params} {l t : Link} (h : Effect l t) (hl : l.PendingOk p) : t.PendingOk p := by
  cases h with
  | plain => exact hl
  | reply _ h => exact h.pendingOk hl.unregister

/-- R170, R172: an accepted INVOKE registers and records the command that REQ_WF checked. -/
theorem invoke_pendingOk {p : Params} {e dst : Nat} {args : List Value} {l t : Link}
    (h : invoke p e args dst l = .next t) (hl : l.PendingOk p) : t.PendingOk p := by
  obtain ⟨C, hC, hwf, ⟨-, rfl⟩ | ⟨-, rfl⟩⟩ := invoke_cases h
  · exact hl
  · rw [sendFrame_eq]
    simp only [reqWf, Bool.and_eq_true] at hwf
    obtain ⟨-, hfits⟩ := hwf
    cases hr : findReply l.replies dst with
    | none => simp [hr] at hfits
    | some r => exact ⟨fun _ _ => ⟨rfl, rfl⟩, fun _ => ⟨C, r, hC, rfl, rfl, hr, by simpa [hr] using hfits⟩⟩

theorem LinkStep.pendingOk {p : Params} {n : Nat} {i : Instr} {l t : Link} (h : LinkStep p n l t i)
    (hsend : ∀ cmd y q x A e, i ≠ .sendCommand cmd y q x A e) (hl : l.PendingOk p) : t.PendingOk p := by
  cases h with
  | invoke h => exact invoke_pendingOk h hl
  | sendCommand => exact absurd rfl (hsend _ _ _ _ _ _)
  | cancel h =>
    rw [h]
    exact .of_idle rfl
  | reset h =>
    rw [h]
    exact .of_idle rfl
  | replyHandle h => exact h.pendingOk hl
  | other h => exact h.pendingOk hl

theorem LinkStep.framerInv {c : Config} {n : Nat} {i : Instr} {l t : Link} (h : LinkStep c.toParams n l t i)
    (hadd : ∀ b, i ≠ .rxAdd b) (habort : ∀ d, i ≠ .rxAbort d) (hl : l.framerInv c.toParams) :
    t.framerInv c.toParams := by
  cases h with
  | invoke h =>
    obtain ⟨C, -, -, ⟨-, rfl⟩ | ⟨-, rfl⟩⟩ := invoke_cases h
    · exact hl
    · rw [sendFrame_eq]
      exact hl
  | sendCommand h =>
    rw [h, sendFrame_eq]
    exact hl
  | cancel h =>
    rw [h]
    exact hl
  | reset h =>
    rw [h]
    exact ⟨fun _ => rfl, Nat.zero_le _, fun _ => rfl⟩
  | replyHandle h => cases h <;> exact hl
  | other _ hf => exact hf.framerInv hadd habort hl

/-! ### The invariant of a link (R37) -/

/-- What a host access can do: it returns a part of a record, or stores a record that no command has borrowed. -/
theorem hostAccess_cases {a : HostAccess} {l t : Link} (h : hostAccess a l = .next t) :
    (∃ rd, t = { l with reads := rd }) ∨
    ∃ dst r, l.borrowed dst = false ∧ t = { l with replies := putReply l.replies dst r } := by
  cases a with
  | readNotif =>
    simp only [hostAccess] at h
    split at h <;> cases h
    exact .inl ⟨_, rfl⟩
  | readReply dst sel =>
    simp only [hostAccess, readReply] at h
    repeat' split at h
    all_goals cases h
    all_goals exact .inl ⟨_, rfl⟩
  | writeReply dst r =>
    simp only [hostAccess] at h
    split at h
    · cases h
    · rename_i hborrowed
      split at h <;> cases h
      exact .inr ⟨dst, r, by simpa using hborrowed, rfl⟩

/-- R52: the record of the pending command is borrowed, so a host write is to another one. -/
theorem slotInv_putReply {p : Params} {l : Link} {dst : Nat} (hborrowed : l.borrowed dst = false) (h : l.slotInv p)
    (r : Record) : Link.slotInv p { l with replies := putReply l.replies dst r } := by
  intro hbusy
  obtain ⟨C, q, hC, hcmd, hsub, hq, hfits⟩ := h hbusy
  have hne : l.slotDst ≠ dst := by
    have hbusy : l.busy = true := hbusy
    simpa [Link.borrowed, hbusy] using hborrowed
  exact ⟨C, q, hC, hcmd, hsub, (findReply_putReply_other _ r hne).trans hq, hfits⟩

theorem hostAccess_inv {p : Params} {a : HostAccess} {l t : Link} (h : hostAccess a l = .next t) (hl : l.inv p) :
    t.inv p := by
  obtain ⟨hframer, hreg, hslot, hwf⟩ := hl
  have hwf := hostAccess_wf hwf h
  obtain ⟨rd, rfl⟩ | ⟨dst, r, hborrowed, rfl⟩ := hostAccess_cases h
  · exact ⟨hframer, hreg, hslot, hwf⟩
  · exact ⟨hframer, hreg, slotInv_putReply hborrowed hslot r, hwf⟩

/-- A transaction that is no inner procedure decodes to none: its port is its operation's. -/
theorem ne_inner_of_decode {p : Params} {x : Txn} {i : Instr} (hx : (Act.txn x).isInner = false)
    (h : decode p x = .op i) :
    (∀ b, i ≠ .rxAdd b) ∧ (∀ d, i ≠ .rxAbort d) ∧ ∀ cmd y q x A e, i ≠ .sendCommand cmd y q x A e := by
  obtain ⟨-, rfl⟩ := spells_of_decode h
  refine ⟨?_, ?_, ?_⟩ <;> rintro _ <;> intros <;> rintro rfl <;>
    exact Bool.false_ne_true (hx : true = false).symm

theorem runItem_inv {a : Act} {s t : State} (ha : a.isInner = false) (h : runItem a s = .next t)
    (hs : s.link.inv s.cfg.toParams) : t.link.inv s.cfg.toParams := by
  obtain ⟨x, -, h⟩ | ⟨x, i, rfl, hdec, h⟩ := runItem_cases h
  · exact hostAccess_inv h hs
  · obtain ⟨hadd, habort, hsend⟩ := ne_inner_of_decode ha hdec
    obtain ⟨hframer, hreg, hslot, hwf⟩ := hs
    obtain ⟨hreg', hslot'⟩ := h.pendingOk hsend ⟨hreg, hslot⟩
    exact ⟨h.framerInv hadd habort hframer, hreg', hslot', h.wf hwf⟩

/-- Settles O8. -/
theorem everyTransactionKeepsInvariant : Obligations.EveryTransactionKeepsInvariant := fun _ _ hs hinner h =>
  step_forall_links (P := Link.inv) h hs fun it hit _ hcfg hu hrun =>
    hcfg ▸ runItem_inv (hinner it hit) hrun (hcfg.symm ▸ hu)

/-! ### Reset (R250) -/

/-- The link after reset meets the invariant: an idle framer, no command, the host's blank records. -/
theorem reset_link_inv : State.reset.link.inv State.reset.cfg.toParams := by
  obtain ⟨hreg, hslot⟩ : State.reset.link.PendingOk State.reset.cfg.toParams := .of_idle rfl
  exact ⟨⟨fun _ => rfl, Nat.zero_le _, fun _ => rfl⟩, hreg, hslot, reset_wf⟩

/-- Settles O9: there is one link, and it is reset. -/
theorem resetMeetsInvariants : Obligations.ResetMeetsInvariants :=
  ⟨⟨List.forall_mem_singleton.mpr reset_link_inv, rfl⟩, ⟨List.forall_mem_singleton.mpr reset_wf, rfl⟩⟩

/-- Settles O10. -/
theorem resetValues : Obligations.ResetValues := ⟨rfl, rfl, rfl, rfl, rfl, rfl, rfl, rfl, rfl, rfl, rfl⟩

/-- R24: the free values fill a buffer of `RX_CAP` bytes. -/
theorem resetLink_rxBuf_length (p : Params) (n : Nat) (l : Link) : (resetLink p n l).rxBuf.length = p.rxCap := by
  simp [resetLink]

/-- Settles O44. -/
theorem resetTransaction : Obligations.ResetTransaction := fun _ =>
  ⟨_, rfl, rfl, rfl, rfl, rfl, rfl, rfl, rfl, rfl, rfl, rfl, rfl, resetLink_rxBuf_length _ _ _, rfl, rfl, rfl, rfl, rfl,
    rfl, rfl, rfl⟩

end Sys2Proof.Machine

/-! The Link Framer's remaining rows (40_link_framer.md): the residue (R102), CRC_STEP (R100), TX_CLOSE (R112, R113),
RX_OPEN and RX_ABORT (R104, R106), and what RX_BYTE does in each state (R103, R109) and wire class (R70). -/

namespace Sys2Proof

/-! ### The table and the reserved bytes of a configuration (R7, R100) -/

/-- R100: masking with 0xFF and taking the low byte index the same entry. -/
theorem Crc.and_ff_toNat (v : Crc) : (v &&& 0xFF).toNat = v.lo.toNat := by
  rw [BitVec.toNat_and, Crc.lo, BitVec.toNat_setWidth]
  exact Nat.and_two_pow_sub_one_eq_mod v.toNat 8

/-- R100: the table has 256 entries, so every byte indexes one. -/
theorem Config.table_getElem? (c : Config) (i : Byte) : c.table[i.toNat]? = some (c.tableAt i) := by
  obtain ⟨hlen, -⟩ := c.size_facts
  have hi : i.toNat < c.table.length := by rw [hlen]; exact i.isLt
  rw [Params.tableAt, List.getD_eq_getElem _ _ hi, List.getElem?_eq_getElem hi]

/-- R7(a). -/
theorem Config.esc_ne_delim (c : Config) : c.esc ≠ c.delim := by
  obtain ⟨hne, -⟩ := c.link_facts
  exact hne.symm

/-- R7(c): the escaped form of a reserved byte is not reserved. -/
theorem Config.escaped_unreserved (c : Config) {u : Byte} (h : u = c.delim ∨ u = c.esc) :
    u ^^^ c.mask ≠ c.delim ∧ u ^^^ c.mask ≠ c.esc := by
  obtain ⟨-, -, hdd, hde, hed, hee⟩ := c.link_facts
  obtain rfl | rfl := h
  · exact ⟨hdd, hde⟩
  · exact ⟨hed, hee⟩

end Sys2Proof

namespace Sys2Proof.Machine

/-! ### CRC (R100, R102) -/

/-- Settles O11: the residue is the table's formula, and three entries of the default table. -/
theorem residueIsFixedByTable : Obligations.ResidueIsFixedByTable := by
  refine ⟨fun c v => ⟨?fold, c.good_eq_residue⟩, ?entries⟩
  case fold => exact (crcFold_complement c.toParams v).trans c.good_eq_residue.symm
  case entries => exact ⟨rfl, rfl, rfl⟩

/-- Settles O12. -/
theorem crcStepValue : Obligations.CrcStepValue := by
  intro s c b
  refine ⟨s.cfg.tableAt (Crc.lo (c ^^^ b.setWidth 16)), ?_, rfl⟩
  rw [Crc.and_ff_toNat]
  exact Config.table_getElem? _ _

/-! ### Transmit path -/

theorem exec_txClose (s : State) : exec .txClose s = .next (s.setLink (txClose s.cfg.toParams s.link)) := rfl

/-- Settles O15: the check bytes fold the running CRC to the residue, which is GOOD (R7). -/
theorem txCloseEmitsFcs : Obligations.TxCloseEmitsFcs := by
  intro s
  rw [exec_txClose, txClose_eq, crcFold_complement, s.cfg.good_eq_residue, List.append_assoc]
  rfl

/-! ### RX_OPEN and RX_ABORT -/

/-- Settles O16. -/
theorem rxOpenStartsFrame : Obligations.RxOpenStartsFrame := fun _ => rfl

/-- Settles O18. -/
theorem rxAbortDiscardsFrame : Obligations.RxAbortDiscardsFrame := fun _ _ => rfl

/-! ### RX_BYTE, by the framer's state and the byte (R103) -/

theorem rxByte_ignored {p : Params} {b : Byte} {l : Link} (hidle : l.rxState = .idle)
    (hb : l.rxLastDelim = false ∨ b = p.delim) :
    rxByte p b l = .next { l with rxLastDelim := decide (b = p.delim) } := by
  have hno : ¬ (l.rxLastDelim = true ∧ b ≠ p.delim) := fun ⟨hlast, hne⟩ =>
    hb.elim (fun h => Bool.false_ne_true (h.symm.trans hlast)) hne
  simp only [rxByte, rxArm, hidle, if_neg hno, onNext_next]

/-- R103, R104: a byte that opens a frame is the first byte received on the opened frame. -/
theorem rxByte_opens {p : Params} {b : Byte} {l : Link} (hidle : l.rxState = .idle) (hlast : l.rxLastDelim = true)
    (hb : b ≠ p.delim) : rxByte p b l = rxByte p b (rxOpen p l) := by
  simp only [rxByte, rxArm, hidle, if_pos (And.intro hlast hb), rxOpen, if_pos hb]

theorem rxByte_adds {p : Params} {b : Byte} {l : Link} (hopen : l.rxState = .receiving) (hb : b ≠ p.delim) :
    rxByte p b l = .next { rxAdd p b l with rxLastDelim := false } := by
  simp only [rxByte, rxArm, hopen, if_pos hb, onNext_next, decide_eq_false hb]

theorem rxByte_escapes {p : Params} {b : Byte} {l : Link} (hopen : l.rxState = .receiving) (hb : b ≠ p.delim)
    (he : b = p.esc) : rxByte p b l = .next { l with rxEsc := true, rxLastDelim := false } := by
  rw [rxByte_adds hopen hb, rxAdd_of_esc he]

/-- R103, R105: a data byte that fits is stored, unescaped where an escape is pending. -/
theorem rxByte_stores {p : Params} {d : Byte} {l : Link} (hopen : l.rxState = .receiving) (hd : d ≠ p.delim)
    (he : d ≠ p.esc) (hroom : l.rxFill < p.rxCap) :
    rxByte p d l = .next { l with
      rxEsc := false, rxLastDelim := false
      rxBuf := l.rxBuf.set l.rxFill (if l.rxEsc then d ^^^ p.mask else d), rxFill := l.rxFill + 1
      rxCrc := crcStep p l.rxCrc (if l.rxEsc then d ^^^ p.mask else d) } := by
  rw [rxByte_adds hopen hd, rxAdd_of_ne_esc he, rxStore_of_not_full (l := { l with rxEsc := false }) hroom.ne]

theorem rxByte_closes {p : Params} {l : Link} (hopen : l.rxState = .receiving) :
    rxByte p p.delim l = onNext (rxClose p l) fun l => { l with rxLastDelim := true } := by
  simp only [rxByte, rxArm, hopen, ne_eq, not_true_eq_false, if_false, decide_true]

/-- Settles O21. -/
theorem rxByteIgnoredInIdle : Obligations.RxByteIgnoredInIdle := by
  intro s b hidle hb
  rw [exec_rxByte, rxByte_ignored hidle hb, State.lift_next]

/-- Settles O22: a frame opens with room for its first byte, and with no escape pending. -/
theorem rxByteOpensFrame : Obligations.RxByteOpensFrame := by
  intro s b hidle hesc hlast hb
  rw [exec_rxByte, rxByte_opens hidle hlast hb]
  by_cases he : b = s.cfg.esc
  · rw [rxByte_escapes rfl hb he, if_pos he, State.lift_next]
    rfl
  · obtain ⟨-, -, hcap, -⟩ := s.cfg.size_facts
    have hroom : (rxOpen s.cfg.toParams s.link).rxFill < s.cfg.rxCap := Nat.lt_of_lt_of_le (Nat.succ_pos 5) hcap
    rw [rxByte_stores rfl hb he hroom, if_neg he, State.lift_next]
    simp only [rxOpen, hesc, Bool.false_eq_true, if_false, Nat.zero_add]

/-- Settles O23: an equation of RX_ADD per class of byte. -/
theorem rxByteWhileReceiving : Obligations.RxByteWhileReceiving := by
  rintro s b u hopen hb rfl
  rw [exec_rxByte, rxByte_adds hopen hb, State.lift_next]
  by_cases he : b = s.cfg.esc
  · rw [rxAdd_of_esc he, if_pos he]
  rw [rxAdd_of_ne_esc he, if_neg he]
  by_cases hfull : s.link.rxFill = s.cfg.rxCap
  · rw [rxStore_of_full (l := { s.link with rxEsc := false }) hfull, if_pos hfull]
  · rw [rxStore_of_not_full (l := { s.link with rxEsc := false }) hfull, if_neg hfull]

/-! ### The wire classes while RECEIVING (R70, R103) -/

/-- R103, R108: the delimiter closes the frame and is then noted. -/
theorem exec_rxByte_delim_of_receiving {s : State} (hopen : s.link.rxState = .receiving) :
    exec (.rxByte s.cfg.delim) s = onNext (exec .rxClose s) fun t => t.setLink { t.link with rxLastDelim := true } := by
  rw [exec_rxByte, rxByte_closes hopen, State.lift_onNext, exec_rxClose]

/-- R107: on a link that meets the invariant RX_CLOSE completes and leaves an idle framer. -/
theorem rxClose_completes {c : Config} {l : Link} (hl : l.inv c.toParams) :
    ∃ t, rxClose c.toParams l = .next t ∧ t = t.withFramer (rxShut l) := by
  obtain ⟨-, hreg, hslot, -⟩ := hl
  obtain ⟨t, ht⟩ := rxClose_runs hreg hslot
  obtain ⟨-, hshut⟩ := rxClose_effect ht
  exact ⟨t, ht, hshut⟩

/-- Settles O24: one case per class. -/
theorem wireBytesWhileReceiving : Obligations.WireBytesWhileReceiving := by
  intro s hopen
  have hdelim := exec_rxByte_delim_of_receiving hopen
  refine ⟨hdelim, hdelim, fun hinv => ⟨?escape, fun d hd he hroom => ?data, ?delimiter⟩⟩
  case escape =>
    rw [exec_wireEsc, exec_rxByte, rxByte_escapes hopen s.cfg.esc_ne_delim rfl, State.lift_next]
  case data =>
    obtain ⟨-, -, -, hwf⟩ := hinv
    obtain ⟨hlen, -⟩ := Memory.wf_iff.mp hwf
    refine ⟨_, congrArg s.lift (rxByte_stores hopen hd he hroom), hopen, rfl, rfl, rfl, ?_⟩
    exact List.getElem?_set_self (hlen.symm ▸ hroom)
  case delimiter =>
    obtain ⟨t, ht, hshut⟩ := rxClose_completes hinv
    refine ⟨_, by rw [exec_wireDelim, hdelim, exec_rxClose, ht]; rfl, ?_, ?_, ?_, rfl⟩ <;>
      simp only [State.setLink_link] <;> rw [hshut] <;> rfl

end Sys2Proof.Machine

/-! The framing round trip (40_link_framer.md R114): the wire bytes of a link payload, received one by one, rebuild the
payload in the receive buffer with a good CRC, and the closing delimiter delivers it. -/

namespace Sys2Proof.Machine

/-! ### Runs of received bytes on the link -/

/-- RX_BYTE of each byte in order, on one link. -/
def receiveAll (p : Params) : List Byte → Link → LinkOut
  | [], l => .next l
  | b :: bs, l => andThen (rxByte p b l) (receiveAll p bs)

/-- A run of received bytes is the run on the addressed link. -/
theorem rxBytes_eq_lift (bs : List Byte) (s : State) : rxBytes bs s = s.lift (receiveAll s.cfg.toParams bs s.link) := by
  induction bs generalizing s with
  | nil => rfl
  | cons b bs ih =>
    show andThen (s.lift (rxByte s.cfg.toParams b s.link)) (rxBytes bs) = _
    rw [receiveAll]
    cases rxByte s.cfg.toParams b s.link with
    | next l => exact ih (s.setLink l)
    | fault r => rfl
    | refused r => rfl

theorem receiveAll_append (p : Params) (bs bs' : List Byte) (l : Link) :
    receiveAll p (bs ++ bs') l = andThen (receiveAll p bs l) (receiveAll p bs') := by
  induction bs generalizing l with
  | nil => rfl
  | cons b bs ih =>
    rw [List.cons_append, receiveAll, receiveAll]
    cases rxByte p b l with
    | next m => exact ih m
    | fault r => rfl
    | refused r => rfl

theorem receiveAll_cons_of_next {p : Params} {b : Byte} {l m : Link} (h : rxByte p b l = .next m) (bs : List Byte) :
    receiveAll p (b :: bs) l = receiveAll p bs m := by
  rw [receiveAll, h, andThen_next]

/-! ### Bytes stored in order -/

/-- The buffer after storing `us` from place `k` on. -/
def storeBytes (buf : List Byte) (k : Nat) : List Byte → List Byte
  | [] => buf
  | u :: us => storeBytes (buf.set k u) (k + 1) us

theorem storeBytes_length (buf : List Byte) (k : Nat) (us : List Byte) :
    (storeBytes buf k us).length = buf.length := by
  induction us generalizing buf k with
  | nil => rfl
  | cons u us ih => exact (ih _ _).trans List.length_set

/-- Bytes that fit are stored one after the other, behind what was there. -/
theorem storeBytes_take {buf us : List Byte} {k : Nat} (h : k + us.length ≤ buf.length) :
    (storeBytes buf k us).take (k + us.length) = buf.take k ++ us := by
  induction us generalizing buf k with
  | nil => simp [storeBytes]
  | cons u us ih =>
    rw [List.length_cons] at h ⊢
    have hk : k < buf.length := by omega
    have hput : (buf.set k u).take (k + 1) = buf.take k ++ [u] := by
      rw [List.take_succ_eq_append_getElem (by simpa using hk), List.take_set_of_le (Nat.le_refl k),
        List.getElem_set_self]
    calc (storeBytes (buf.set k u) (k + 1) us).take (k + (us.length + 1))
        = (storeBytes (buf.set k u) (k + 1) us).take (k + 1 + us.length) := by rw [Nat.add_right_comm, Nat.add_assoc]
      _ = (buf.set k u).take (k + 1) ++ us := ih (by rw [List.length_set]; omega)
      _ = buf.take k ++ u :: us := by rw [hput, List.append_assoc, List.singleton_append]

/-! ### Stuffed bytes, received by an open frame (R71, R105) -/

/-- `l` with the unescaped bytes `us` added to its open frame. -/
def Link.withStored (p : Params) (us : List Byte) (l : Link) : Link :=
  { l with rxBuf := storeBytes l.rxBuf l.rxFill us, rxFill := l.rxFill + us.length, rxCrc := crcFold p l.rxCrc us
           rxLastDelim := l.rxLastDelim && us.isEmpty }

/-- One byte, escaped or not, is stored as itself. -/
theorem receiveAll_stuffByte {c : Config} {l : Link} (hopen : l.rxState = .receiving) (hesc : l.rxEsc = false)
    (hroom : l.rxFill < c.rxCap) (u : Byte) :
    receiveAll c.toParams (stuffByte c.toParams u) l = .next (l.withStored c.toParams [u]) := by
  unfold stuffByte
  split
  · rename_i hres
    obtain ⟨hd, he⟩ := Config.escaped_unreserved c hres
    rw [receiveAll_cons_of_next (rxByte_escapes hopen c.esc_ne_delim rfl),
      receiveAll_cons_of_next (rxByte_stores (l := { l with rxEsc := true, rxLastDelim := false }) hopen hd he hroom)]
    simp [receiveAll, Link.withStored, storeBytes, hesc]
  · rename_i hres
    obtain ⟨hd, he⟩ := not_or.mp hres
    rw [receiveAll_cons_of_next (rxByte_stores hopen hd he hroom)]
    simp [receiveAll, Link.withStored, storeBytes, hesc]

theorem Link.withStored_cons (p : Params) (u : Byte) (us : List Byte) (l : Link) :
    l.withStored p (u :: us) = (l.withStored p [u]).withStored p us := by
  simp [Link.withStored, storeBytes, Nat.add_comm us.length, Nat.add_assoc]

/-- R114: stuffing is undone byte by byte. -/
theorem receiveAll_stuff {c : Config} {us : List Byte} {l : Link} (hopen : l.rxState = .receiving)
    (hesc : l.rxEsc = false) (hroom : l.rxFill + us.length ≤ c.rxCap) :
    receiveAll c.toParams (stuff c.toParams us) l = .next (l.withStored c.toParams us) := by
  induction us generalizing l with
  | nil => simp [receiveAll, Link.withStored, storeBytes]
  | cons u us ih =>
    rw [List.length_cons] at hroom
    have hu := receiveAll_stuffByte hopen hesc (by omega : l.rxFill < c.rxCap) u
    have hus := ih (l := l.withStored c.toParams [u]) hopen hesc (by show l.rxFill + 1 + us.length ≤ _; omega)
    rw [stuff_cons, receiveAll_append, hu, andThen_next, hus, ← Link.withStored_cons]

/-! ### The frame's two delimiters -/

/-- R71: no stuffed byte is the delimiter, so the first one opens the frame. -/
theorem receiveAll_stuff_opens {c : Config} {l : Link} (hidle : l.rxState = .idle) (hlast : l.rxLastDelim = true)
    (u : Byte) (us : List Byte) :
    receiveAll c.toParams (stuff c.toParams (u :: us)) l =
      receiveAll c.toParams (stuff c.toParams (u :: us)) (rxOpen c.toParams l) := by
  rw [stuff_cons, stuffByte]
  split
  · simp only [List.cons_append, receiveAll, rxByte_opens hidle hlast c.esc_ne_delim]
  · rename_i hres
    simp only [List.cons_append, receiveAll, rxByte_opens hidle hlast (not_or.mp hres).1]

/-- The opening delimiter leaves an idle framer that has seen it, with the buffer as it was. -/
theorem rxByte_delim_idle {c : Config} {l t : Link} (hesc : l.rxState = .idle → l.rxEsc = false)
    (h : rxByte c.toParams c.delim l = .next t) :
    t.rxState = .idle ∧ t.rxEsc = false ∧ t.rxBuf = l.rxBuf ∧ t.rxLastDelim = true := by
  obtain ⟨u, rfl, ⟨hidle, rfl | ⟨hne, -⟩⟩ | ⟨-, ⟨hne, -⟩ | ⟨-, h⟩⟩⟩ := rxByte_cases h
  · exact ⟨hidle, hesc hidle, rfl, decide_eq_true rfl⟩
  · exact absurd rfl hne
  · exact absurd rfl hne
  · obtain ⟨-, hshut⟩ := rxClose_effect h
    rw [hshut]
    exact ⟨rfl, rfl, rfl, decide_eq_true rfl⟩

theorem receiveAll_singleton (p : Params) (b : Byte) (l : Link) : receiveAll p [b] l = rxByte p b l := by
  rw [receiveAll]
  cases rxByte p b l <;> rfl

/-- The closing delimiter on the frame of `P`: the two check bytes are cut off and `P` is delivered. -/
theorem rxByte_delivers {c : Config} {l : Link} {P : List Byte} (hopen : l.rxState = .receiving)
    (hP : 1 ≤ P.length) (hfill : l.rxFill = P.length + 2) (hcrc : l.rxCrc = c.good) (hbuf : l.rxBuf.take P.length = P) :
    rxByte c.toParams c.delim l =
      onNext (frameReceived c.toParams P (rxShut l)) fun t => { t with rxLastDelim := true } := by
  rw [rxByte_closes hopen, rxClose_of_good (by omega) hcrc, hfill, Nat.add_sub_cancel, hbuf]

/-! ### The round trip -/

/-- The bytes between a frame's delimiters, unstuffed (R73). -/
def frameBody (p : Params) (P : List Byte) : List Byte := P ++ fcsBytes p P

theorem frameBody_length (p : Params) (P : List Byte) : (frameBody p P).length = P.length + 2 := List.length_append

theorem frameBody_isEmpty (p : Params) (P : List Byte) : (frameBody p P).isEmpty = false := by
  simp [frameBody, fcsBytes]

/-- R102: the CRC of a payload and its check sequence is GOOD. -/
theorem crcFold_frameBody (c : Config) (P : List Byte) :
    crcFold c.toParams c.seed (frameBody c.toParams P) = c.good := by
  rw [frameBody, crcFold_append, fcsBytes, crcFold_complement, c.good_eq_residue]

/-- An idle framer that has seen a delimiter receives the stuffed body into a frame it opens. -/
theorem receiveAll_frameBody {c : Config} {l : Link} {P : List Byte} (hidle : l.rxState = .idle)
    (hesc : l.rxEsc = false) (hlast : l.rxLastDelim = true) (hP : 1 ≤ P.length) (hcap : P.length + 2 ≤ c.rxCap) :
    receiveAll c.toParams (stuff c.toParams (frameBody c.toParams P)) l =
      .next ((rxOpen c.toParams l).withStored c.toParams (frameBody c.toParams P)) := by
  have hroom : (rxOpen c.toParams l).rxFill + (frameBody c.toParams P).length ≤ c.rxCap := by
    rw [frameBody_length]
    exact (Nat.zero_add _).trans_le hcap
  rw [← receiveAll_stuff (l := rxOpen c.toParams l) rfl hesc hroom]
  obtain ⟨u, us, rfl⟩ := List.exists_cons_of_length_pos hP
  exact receiveAll_stuff_opens hidle hlast u _

/-- The payload stands at the head of the buffer that holds the body. -/
theorem take_storeBytes_frameBody {p : Params} {buf P : List Byte} (h : P.length + 2 ≤ buf.length) :
    (storeBytes buf 0 (frameBody p P)).take P.length = P := by
  have hall : (storeBytes buf 0 (frameBody p P)).take (P.length + 2) = frameBody p P := by
    have htake := storeBytes_take (buf := buf) (us := frameBody p P) (k := 0) (by rw [frameBody_length]; omega)
    rwa [Nat.zero_add, List.take_zero, List.nil_append, frameBody_length] at htake
  calc (storeBytes buf 0 (frameBody p P)).take P.length
      = ((storeBytes buf 0 (frameBody p P)).take (P.length + 2)).take P.length := by
        rw [List.take_take, Nat.min_eq_left (Nat.le_add_right _ 2)]
    _ = P := by rw [hall, frameBody, List.take_left]

/-- Closing the body's frame leaves the framer idle, with the body in the buffer and a good CRC (R102). -/
theorem rxShut_withStored_frameBody {c : Config} {l : Link} (hidle : l.rxState = .idle) (hesc : l.rxEsc = false)
    (P : List Byte) :
    rxShut ((rxOpen c.toParams l).withStored c.toParams (frameBody c.toParams P)) =
      { l with rxBuf := storeBytes l.rxBuf 0 (frameBody c.toParams P), rxFill := 0, rxCrc := c.good
               rxLastDelim := false } := by
  simp only [rxShut, Link.withStored, rxOpen, crcFold_frameBody, frameBody_isEmpty, Bool.and_false, hidle, hesc]

/-- Settles O27: the opening delimiter, the stuffed body, the closing delimiter. -/
theorem framingRoundTrip : Obligations.FramingRoundTrip := by
  intro s s1 P hesc hlen hP hcap h
  obtain ⟨l, hl, rfl⟩ := State.lift_eq_next h
  obtain ⟨hidle, hesc', hbuf, hlast⟩ := rxByte_delim_idle hesc hl
  obtain ⟨-, -, hcap6, -⟩ := s.cfg.size_facts
  have hroom : P.length + 2 ≤ s.cfg.rxCap := by omega
  have hhead : (storeBytes l.rxBuf 0 (frameBody s.cfg.toParams P)).take P.length = P :=
    take_storeBytes_frameBody (by rwa [hbuf, hlen])
  refine ⟨hidle, storeBytes l.rxBuf 0 (frameBody s.cfg.toParams P), ?length, hhead, ?delivers⟩
  case length => rw [storeBytes_length, hbuf, hlen]
  case delivers =>
    rw [rxBytes_eq_lift, frameBytes, receiveAll_cons_of_next hl, receiveAll_append, ← frameBody,
      receiveAll_frameBody hidle hesc' hlast hP hroom, andThen_next, receiveAll_singleton,
      rxByte_delivers rfl hP ((Nat.zero_add _).trans (frameBody_length _ P)) (crcFold_frameBody s.cfg P) hhead,
      State.lift_onNext, rxShut_withStored_frameBody hidle hesc']
    rfl

end Sys2Proof.Machine

/-! The Packet Transport's receive path (41_packet_transport.md R143 to R150) and the headers that go out by themselves:
FRAME_RECEIVED's routes, PEER_PATH in its two cases, REPLY_PATH's registration. -/

namespace Sys2Proof.Machine

/-! ### Headers sent by themselves -/

theorem exec_hdrCommandOut (cmd len : Byte) (y q : Bit) (s : State) :
    exec (.hdrCommandOut cmd len y q) s = .next (s.setLink (commandHeader s.cfg.toParams cmd len 0 s.link)) := rfl

theorem exec_hdrAckOut (cmd : Byte) (q : Bit) (s : State) :
    exec (.hdrAckOut cmd q) s = .next (s.setLink (ackHeader s.cfg.toParams cmd s.link)) := rfl

/-- R81: with no extra flags the flags byte is the table's word. -/
theorem commandFlags_zero : ∀ seq sync : Bit, commandFlags 0 seq sync = commandWordFlags sync seq := by decide

/-- Settles O28. -/
theorem commandHeaderGoesOut : Obligations.CommandHeaderGoesOut := by
  rintro s cmd len y q seq sync rfl rfl
  rw [exec_hdrCommandOut, commandHeader, commandFlags_zero, txWrites_eq]
  rfl

/-- Settles O29. -/
theorem ackHeaderGoesOut : Obligations.AckHeaderGoesOut := by
  intro s cmd q
  rw [exec_hdrAckOut, ackHeader, ackHeader_bytes, txWrites_eq]

/-! ### FRAME_RECEIVED (R143) -/

theorem exec_peerPath (cmd flags : Byte) (A : List Byte) (s : State) :
    exec (.peerPath cmd flags A) s = .next (s.setLink (peerPath s.cfg.toParams cmd flags A s.link)) := rfl

theorem exec_replyPath (cmd : Byte) (x : BitVec 7) (A : List Byte) (s : State) :
    exec (.replyPath cmd x A) s = s.lift (replyPath s.cfg.toParams cmd A s.link) := rfl

theorem exec_hdrReply (cmd len flags : Byte) (A : List Byte) (s : State) :
    exec (.hdrReply cmd len flags A) s = exec (.frameReceived (cmd :: len :: flags :: A)) s := rfl

theorem exec_hdrPeerSync (cmd len flags : Byte) (A : List Byte) (s : State) :
    exec (.hdrPeerSync cmd len flags A) s = exec (.frameReceived (cmd :: len :: flags :: A)) s := rfl

theorem exec_hdrPeerNosync (cmd len flags : Byte) (A : List Byte) (s : State) :
    exec (.hdrPeerNosync cmd len flags A) s = exec (.frameReceived (cmd :: len :: flags :: A)) s := rfl

theorem frameReceived_of_short {P : List Byte} (h : P.length < 3) (p : Params) (l : Link) :
    frameReceived p P l = .next (l.discard .short) := by
  unfold frameReceived
  split
  · simp only [List.length_cons] at h
    omega
  · rfl

theorem frameReceived_of_length {len : Byte} {A : List Byte} (h : A.length ≠ len.toNat) (p : Params)
    (cmd flags : Byte) (l : Link) : frameReceived p (cmd :: len :: flags :: A) l = .next (l.discard .length) := if_pos h

theorem frameReceived_of_response {len flags : Byte} {A : List Byte} (h : A.length = len.toNat)
    (hr : flags.getLsbD 0 = true) (p : Params) (cmd : Byte) (l : Link) :
    frameReceived p (cmd :: len :: flags :: A) l = replyPath p cmd A l := (if_neg (not_not.mpr h)).trans (if_pos hr)

theorem frameReceived_of_peer {len flags : Byte} {A : List Byte} (h : A.length = len.toNat)
    (hr : flags.getLsbD 0 = false) (p : Params) (cmd : Byte) (l : Link) :
    frameReceived p (cmd :: len :: flags :: A) l = .next (peerPath p cmd flags A l) :=
  (if_neg (not_not.mpr h)).trans (if_neg (Bool.eq_false_iff.mp hr))

theorem exec_frameReceived_of_response {len flags : Byte} {A : List Byte} (h : A.length = len.toNat)
    (hr : flags.getLsbD 0 = true) (cmd : Byte) (x : BitVec 7) (s : State) :
    exec (.frameReceived (cmd :: len :: flags :: A)) s = exec (.replyPath cmd x A) s := by
  rw [exec_frameReceived, frameReceived_of_response h hr, exec_replyPath]

theorem exec_frameReceived_of_peer {len flags : Byte} {A : List Byte} (h : A.length = len.toNat)
    (hr : flags.getLsbD 0 = false) (cmd : Byte) (s : State) :
    exec (.frameReceived (cmd :: len :: flags :: A)) s = exec (.peerPath cmd flags A) s := by
  rw [exec_frameReceived, frameReceived_of_peer h hr, exec_peerPath, State.lift_next]

/-- Settles O33. -/
theorem frameReceivedRoutes : Obligations.FrameReceivedRoutes := by
  refine fun s => ⟨fun P hP => ?short, fun cmd len flags A => ⟨exec_hdrReply _ _ _ _ _, exec_hdrPeerSync _ _ _ _ _,
    exec_hdrPeerNosync _ _ _ _ _, fun h => ?length, fun h hr x => exec_frameReceived_of_response h hr cmd x s,
    fun h hr => exec_frameReceived_of_peer h hr cmd s⟩⟩ <;> rw [exec_frameReceived]
  case short =>
    rw [frameReceived_of_short hP]
    rfl
  case length =>
    rw [frameReceived_of_length h]
    rfl

/-! ### PEER_PATH (R146 to R148) -/

/-- R146, by the bits of the flags byte. -/
theorem isNewFrame_iff_bits {flags : Byte} {l : Link} :
    isNewFrame flags l = true ↔ flags.getLsbD 3 = true ∨ flags.extractLsb' 1 1 ≠ l.rxSeq :=
  isNewFrame_iff.trans (or_congr_left (syncOf_eq_one flags))

theorem notifDecode_rxSeq (p : Params) (cmd : Byte) (A : List Byte) (l : Link) :
    (notifDecode p cmd A l).rxSeq = l.rxSeq := by
  obtain ⟨d, h⟩ | ⟨N, -, -, -, -, h⟩ := notifDecode_cases p cmd A l <;> simp [h]

theorem notifDecode_tx (p : Params) (cmd : Byte) (A : List Byte) (l : Link) : (notifDecode p cmd A l).tx = l.tx := by
  obtain ⟨d, h⟩ | ⟨N, -, -, -, -, h⟩ := notifDecode_cases p cmd A l <;> simp [h]

/-- R146: whether the frame is new or a duplicate, its sequence bit is the last one seen. -/
theorem peerAccept_rxSeq (p : Params) (cmd flags : Byte) (A : List Byte) (l : Link) :
    (peerAccept p cmd flags A l).rxSeq = seqOf flags := by
  obtain ⟨hdup, h⟩ | ⟨-, -, h⟩ | ⟨-, -, h⟩ := peerAccept_cases p cmd flags A l <;> rw [h]
  · obtain ⟨-, hseq⟩ := not_or.mp (mt isNewFrame_iff.mpr (Bool.eq_false_iff.mp hdup))
    exact (not_not.mp hseq).symm
  · exact notifDecode_rxSeq _ _ _ _

/-- R148: nothing goes out before the acknowledgement. -/
theorem peerAccept_tx (p : Params) (cmd flags : Byte) (A : List Byte) (l : Link) :
    (peerAccept p cmd flags A l).tx = l.tx := by
  obtain ⟨-, h⟩ | ⟨-, -, h⟩ | ⟨-, -, h⟩ := peerAccept_cases p cmd flags A l <;> rw [h]
  · rfl
  · exact notifDecode_tx _ _ _ _

/-- R146, R148: PEER_PATH accepts the frame and acknowledges its sequence bit. -/
theorem peerPath_eq (c : Config) (cmd flags : Byte) (A : List Byte) (l : Link) :
    peerPath c.toParams cmd flags A l = { peerAccept c.toParams cmd flags A l with
      txCrc := c.good, tx := l.tx ++ frameOut c.toParams (ackPayload cmd (seqOf flags)) } := by
  simp only [peerPath, sendAck_eq, peerAccept_rxSeq, peerAccept_tx, c.good_eq_residue]

theorem peerAccept_of_duplicate {flags : Byte} {l : Link} (hsync : flags.getLsbD 3 = false)
    (hseq : flags.extractLsb' 1 1 = l.rxSeq) (p : Params) (cmd : Byte) (A : List Byte) :
    peerAccept p cmd flags A l = l.discard .duplicate := by
  refine if_neg fun hnew => ?_
  obtain h | h := isNewFrame_iff_bits.mp hnew
  · exact Bool.false_ne_true (hsync.symm.trans h)
  · exact h hseq

/-- Settles O34: the duplicate is discarded, and `rxSeq` is its sequence bit. -/
theorem duplicateIsOnlyAcknowledged : Obligations.DuplicateIsOnlyAcknowledged := by
  rintro s t cmd len flags A hlen hresp hsync hseq rfl
  have hpeer := exec_frameReceived_of_peer hlen hresp cmd s
  rw [exec_hdrPeerNosync, hpeer, exec_peerPath, peerPath_eq, peerAccept_of_duplicate hsync hseq, seqOf, hseq]
  exact ⟨rfl, rfl, rfl⟩

/-- R147: a new frame's payload of at least one byte goes to NOTIF_DECODE, an empty one to nothing. -/
theorem peerAccept_of_new {flags : Byte} {l : Link}
    (hnew : flags.getLsbD 3 = true ∨ flags.extractLsb' 1 1 ≠ l.rxSeq) (p : Params) (cmd : Byte) (A : List Byte) :
    peerAccept p cmd flags A l =
      if A.isEmpty then { l with rxSeq := seqOf flags } else notifDecode p cmd A { l with rxSeq := seqOf flags } :=
  if_pos (isNewFrame_iff_bits.mpr hnew)

/-- Settles O35: `u` is the state before the acknowledgement. -/
theorem newPeerFrameIsForwarded : Obligations.NewPeerFrameIsForwarded := by
  intro s cmd len flags A hlen hresp hnew
  have hpeer := exec_frameReceived_of_peer hlen hresp cmd s
  have haccept := peerAccept_of_new hnew s.cfg.toParams cmd A
  refine ⟨_, s.setLink (peerAccept s.cfg.toParams cmd flags A s.link), exec_peerPath cmd flags A s, ?sync, ?nosync,
    fun hA => ?empty, fun hA => ?forwarded, ?acknowledged⟩
  case sync => rw [exec_hdrPeerSync, hpeer, exec_peerPath]
  case nosync => rw [exec_hdrPeerNosync, hpeer, exec_peerPath]
  case empty =>
    rw [haccept, hA]
    rfl
  case forwarded =>
    rw [haccept, if_neg (by simpa using hA), exec_notifDecode]
    rfl
  case acknowledged =>
    rw [peerPath_eq]
    rfl

/-- Settles O36: after its first acceptance the frame is a duplicate. -/
theorem replayOnlyAcknowledgesAgain : Obligations.ReplayOnlyAcknowledgesAgain := by
  intro s t cmd flags A hsync h
  have ht : t = s.setLink (peerPath s.cfg.toParams cmd flags A s.link) := by cases h; rfl
  have hcfg : t.cfg = s.cfg := by rw [ht]; rfl
  have hlink := (congrArg State.link ht).trans (peerPath_eq s.cfg cmd flags A s.link)
  have hseq : seqOf flags = t.link.rxSeq := by
    rw [hlink]
    exact (peerAccept_rxSeq _ cmd flags A _).symm
  have hcrc : t.cfg.good = t.link.txCrc := by rw [hcfg, hlink]
  rw [exec_peerPath, peerPath_eq, peerAccept_of_duplicate hsync hseq, hcrc, hcfg]
  rfl

/-- Settles O20: RX_CLOSE delivers the payload, and FRAME_RECEIVED takes PEER_PATH on the closed framer. -/
theorem rxCloseDeliversPeerFrame : Obligations.RxCloseDeliversPeerFrame := by
  intro s cmd len flags A hcrc hfill hbuf hlen hresp
  have hclose : exec .rxClose s = s.lift (.next (peerPath s.cfg.toParams cmd flags A (rxShut s.link))) := by
    rw [exec_rxClose, rxClose_of_good (by omega) hcrc, hbuf, frameReceived_of_peer hlen hresp]
  have heff := (peerPath_effect s.cfg.toParams cmd flags A (rxShut s.link)).withFramer_eq
  refine ⟨_, hclose, exec_peerPath _ _ _ _, ?_, ?_, ?_, ?seq, ?tx⟩
  case seq =>
    rw [State.setLink_link, peerPath_eq]
    exact peerAccept_rxSeq _ _ _ _ _
  case tx =>
    rw [State.setLink_link, peerPath_eq]
    rfl
  all_goals
    rw [State.setLink_link, ← heff]
    rfl

/-! ### REPLY_PATH (R144, R145) -/

theorem replyPath_of_unexpected {cmd : Byte} {l : Link} (h : l.regValid = false ∨ l.regCmdId ≠ cmd) (p : Params)
    (rc : Byte) (R : List Byte) : replyPath p cmd (rc :: R) l = .next (l.discard .unexpectedReply) :=
  if_neg fun ⟨hreg, hcmd⟩ => h.elim (fun h => Bool.false_ne_true (h.symm.trans hreg)) fun h => h hcmd

theorem replyPath_of_matched {cmd : Byte} {l : Link} (hreg : l.regValid = true) (hcmd : l.regCmdId = cmd) (p : Params)
    (rc : Byte) (R : List Byte) :
    replyPath p cmd (rc :: R) l = replyHandle p l.regEntry cmd rc R { l with regValid := false } :=
  if_pos ⟨hreg, hcmd⟩

/-- Settles O38. -/
theorem unexpectedReplyIsDropped : Obligations.UnexpectedReplyIsDropped := by
  refine fun s cmd x => ⟨rfl, fun rc R h => ?_⟩
  rw [exec_replyPath, replyPath_of_unexpected h]
  rfl

theorem ReplyEffect.regValid_eq {l t : Link} (h : ReplyEffect l t) : t.regValid = l.regValid := by
  cases h <;> rfl

/-- Settles O39: an empty reply, a reply to another command, and a matching one. -/
theorem matchedReplyClearsRegistration : Obligations.MatchedReplyClearsRegistration := by
  intro s t cmd x A h hreg
  have hkept : ∀ d, t = s.setLink (s.link.discard d) → ¬ t.link.regValid = false := by
    rintro d rfl (hcleared : s.link.regValid = false)
    exact Bool.false_ne_true (hcleared.symm.trans hreg)
  rw [exec_replyPath] at h
  cases A with
  | nil =>
    cases h
    exact iff_of_false (hkept _ rfl) fun ⟨hne, _⟩ => hne rfl
  | cons rc R =>
    by_cases hcmd : s.link.regCmdId = cmd
    · rw [replyPath_of_matched hreg hcmd] at h
      obtain ⟨l, hl, rfl⟩ := State.lift_eq_next h
      exact iff_of_true (replyHandle_effect hl).regValid_eq ⟨List.cons_ne_nil _ _, hcmd⟩
    · rw [replyPath_of_unexpected (.inr hcmd)] at h
      cases h
      exact iff_of_false (hkept _ rfl) fun ⟨_, h⟩ => hcmd h

end Sys2Proof.Machine

/-! The Command Engine's remaining rules (42_command_engine.md, 70_reset_and_hazards.md): a request's payload and its
bound (R79, R83), INVOKE (R170, R171), the checks of REPLY_HANDLE (R174 to R176), a delivered notification (R180) and
the late replies of R255. -/

namespace Sys2Proof.Machine

/-! ### Big-endian values (R11) -/

theorem beBytes_length (w v : Nat) : (beBytes w v).length = w := by simp [beBytes]

theorem beBytes_getElem? {w k : Nat} (h : k < w) (v : Nat) :
    (beBytes w v)[k]? = some (BitVec.ofNat 8 (v >>> (8 * (w - 1 - k)))) := by simp [beBytes, h]

/-- The last byte holds the value's remainder, the bytes before it its quotient. -/
theorem beBytes_succ (w v : Nat) : beBytes (w + 1) v = beBytes w (v / 256) ++ [BitVec.ofNat 8 v] := by
  have hshift : ∀ k ∈ List.range w, BitVec.ofNat 8 (v >>> (8 * (w + 1 - 1 - k))) =
      BitVec.ofNat 8 ((v / 256) >>> (8 * (w - 1 - k))) := fun k hk => by
    have hexp : 8 * (w + 1 - 1 - k) = 8 + 8 * (w - 1 - k) := by
      have := List.mem_range.mp hk
      omega
    rw [hexp, Nat.shiftRight_add, Nat.shiftRight_eq_div_pow v 8]
  rw [beBytes, List.range_succ, List.map_append, List.map_congr_left hshift]
  simp [beBytes]

/-- R11: a value that fits is read back as itself. -/
theorem beValue_beBytes {w v : Nat} (h : v < 256 ^ w) : beValue (beBytes w v) = v := by
  induction w generalizing v with
  | zero =>
    obtain rfl : v = 0 := by simpa using h
    rfl
  | succ w ih =>
    have hdiv : v / 256 < 256 ^ w := Nat.div_lt_of_lt_mul (by rwa [pow_succ, Nat.mul_comm] at h)
    rw [beBytes_succ, beValue_concat, ih hdiv, BitVec.toNat_ofNat]
    exact Nat.div_add_mod v 256

/-- Settles O42. -/
theorem bigEndianRoundTrip : Obligations.BigEndianRoundTrip :=
  ⟨fun w v => ⟨beBytes_length w v, fun _ hk => beBytes_getElem? hk v⟩, beValue_eq_sum, fun _ _ => beValue_beBytes,
    fun _ _ => decodeField_eq_fieldContent⟩

/-! ### The request's payload (R79, R83(c)) -/

theorem encArg_length_le {f : ReqField} {v : Value} (h : argFits f v = true) : (encArg f v).length ≤ f.maxBytes := by
  cases f <;> cases v <;> simp_all [argFits, encArg, ReqField.maxBytes, beBytes_length]

theorem encArgs_length_le {fs : List ReqField} {vs : List Value} (h : argsFit fs vs = true) :
    (encArgs fs vs).length ≤ (fs.map ReqField.maxBytes).sum := by
  induction fs generalizing vs with
  | nil => cases vs <;> simp [encArgs]
  | cons f fs ih =>
    cases vs with
    | nil => exact absurd h Bool.false_ne_true
    | cons v vs =>
      obtain ⟨hv, hvs⟩ := Bool.and_eq_true_iff.mp h
      rw [encArgs, List.length_append, List.map_cons, List.sum_cons]
      exact Nat.add_le_add (encArg_length_le hv) (ih hvs)

/-- R83(c): the longest request of a well-formed entry is at most 255 bytes. -/
theorem encodeRequest_length_le {C : CmdEntry} (hC : C.ok = true) {args : List Value} (h : argsFit C.req args = true) :
    (encodeRequest C args).length ≤ 255 := by
  obtain ⟨-, -, -, hlongest, -⟩ := CmdEntry.ok_iff.mp hC
  have hlen := encArgs_length_le h
  rw [encodeRequest, List.length_append]
  split at hlongest <;> rename_i hparam <;> simp only [hparam, if_true, Bool.false_eq_true, if_false, List.length_nil,
    List.length_singleton] <;> omega

/-! ### INVOKE (R170, R171) -/

/-- R170, R171: a well-formed INVOKE answers Busy, or sends its request and records the slot. -/
theorem invoke_of_reqWf {p : Params} {e dst : Nat} {args : List Value} {l : Link} {C : CmdEntry}
    (hC : p.cat[e]? = some C) (hwf : reqWf C args (findReply l.replies dst) = true) :
    invoke p e args dst l = if l.busy then .next (l.answer .busy) else
      .next ({ sendFrame p C.cmdId 0 (encodeRequest C args) e l with
        busy := true, slotCmdId := C.cmdId, slotEntry := e, slotSubId := C.subId, slotDst := dst }.answer .ok) := by
  obtain ⟨he, -⟩ := List.getElem?_eq_some_iff.mp hC
  have hlen : (encodeRequest C args).length ≤ 255 := by
    simp only [reqWf, Bool.and_eq_true, decide_eq_true_eq] at hwf
    obtain ⟨⟨-, hlen⟩, -⟩ := hwf
    exact hlen
  simp only [invoke, hC, if_pos hwf, sendCommand_of_admitted he hlen, onNext_next]

/-- Settles O41. -/
theorem invokeWhileBusy : Obligations.InvokeWhileBusy := by
  intro s e dst args h hbusy
  obtain ⟨C, hC, hwf⟩ := reqWellFormed_iff.mp h
  rw [exec_invoke, invoke_of_reqWf hC hwf, if_pos hbusy]
  rfl

/-- The link after an accepted INVOKE of the entry `C`, whose request payload is `A`. -/
def Link.invoked (p : Params) (l : Link) (C : CmdEntry) (e dst : Nat) (A : List Byte) : Link :=
  { l with
    busy := true, slotCmdId := C.cmdId, slotEntry := e, slotSubId := C.subId, slotDst := dst
    regValid := true, regCmdId := C.cmdId, regEntry := e
    txFirst := false
    txSeq := nextSeq l ^^^ 1
    txCrc := p.residue
    tx := l.tx ++ frameOut p (commandPayload l C.cmdId 0 A)
    statuses := l.statuses ++ [.ok] }

theorem invoke_eq_invoked {p : Params} {e dst : Nat} {args : List Value} {l : Link} {C : CmdEntry}
    (hC : p.cat[e]? = some C) (hwf : reqWf C args (findReply l.replies dst) = true) (hidle : l.busy = false) :
    invoke p e args dst l = .next (l.invoked p C e dst (encodeRequest C args)) := by
  rw [invoke_of_reqWf hC hwf, if_neg (Bool.eq_false_iff.mp hidle), sendFrame_eq]
  rfl

/-- Settles O40. -/
theorem invokeSendsRequest : Obligations.InvokeSendsRequest := by
  intro s e dst args C A r hC hA hr hshape hidle
  obtain ⟨hfit, rfl⟩ := requestPayload_eq_some.mp hA
  obtain ⟨hcat, -⟩ := s.cfg.catalog_facts
  have hlen := encodeRequest_length_le (hcat C (List.mem_of_getElem? hC)) hfit
  have hwf : reqWf C args (findReply s.link.replies dst) = true := by
    simp [reqWf, hfit, hlen, hr, Record.hasShape_iff.mp hshape]
  refine ⟨hlen, ?_⟩
  rw [exec_invoke, invoke_eq_invoked hC hwf hidle, Link.invoked, ← s.cfg.good_eq_residue]
  rfl

/-! ### REPLY_HANDLE's checks, in the order of R227 (R174 to R176) -/

theorem replyHandle_of_notPending {cmd : Byte} {l : Link} (h : l.busy = false ∨ l.slotCmdId ≠ cmd) (p : Params)
    (e : Nat) (rc : Byte) (R : List Byte) : replyHandle p e cmd rc R l = .next (l.discard .notPending) := if_pos h

section

variable {p : Params} {e : Nat} {cmd : Byte} {l : Link} {C : CmdEntry} {rc : Byte} {R : List Byte}

theorem not_notPending (hbusy : l.busy = true) (hcmd : l.slotCmdId = cmd) :
    ¬ (l.busy = false ∨ l.slotCmdId ≠ cmd) := by simp [hbusy, hcmd]

theorem replyHandle_of_noEntry (hbusy : l.busy = true) (hcmd : l.slotCmdId = cmd) (hnone : p.cat[e]? = none) :
    replyHandle p e cmd rc R l = .refused .operandRange := by
  simp only [replyHandle, if_neg (not_notPending hbusy hcmd), hnone]

theorem replyHandle_of_subId (hbusy : l.busy = true) (hcmd : l.slotCmdId = cmd) (hC : p.cat[e]? = some C)
    (hparam : C.param = true) (hwrong : R.head? ≠ some l.slotSubId) :
    replyHandle p e cmd rc R l = .next (l.discard .subId) := by
  have hsub : (C.param && subIdWrong R l.slotSubId) = true := by simp [hparam, subIdWrong, hwrong]
  simp only [replyHandle, if_neg (not_notPending hbusy hcmd), hC, if_pos hsub]

theorem not_subIdWrong (h : C.param = true → R.head? = some l.slotSubId) :
    ¬ (C.param && subIdWrong R l.slotSubId) = true := fun hbad => by
  obtain ⟨hparam, hwrong⟩ := Bool.and_eq_true_iff.mp hbad
  exact Bool.false_ne_true ((subIdWrong_eq_false.mpr (h hparam)).symm.trans hwrong)

theorem replyHandle_of_short (hbusy : l.busy = true) (hcmd : l.slotCmdId = cmd) (hC : p.cat[e]? = some C)
    (hsub : C.param = true → R.head? = some l.slotSubId) (hshort : R.length < C.minReply) :
    replyHandle p e cmd p.rcOk R l = .next (l.discard .shortReply) := by
  simp only [replyHandle, if_neg (not_notPending hbusy hcmd), hC, if_neg (not_subIdWrong hsub), hshort, and_self,
    if_true]

theorem replyHandle_of_checked (hbusy : l.busy = true) (hcmd : l.slotCmdId = cmd) (hC : p.cat[e]? = some C)
    (hsub : C.param = true → R.head? = some l.slotSubId) (hlong : rc = p.rcOk → C.minReply ≤ R.length) :
    replyHandle p e cmd rc R l = completeReply p C cmd rc R l := by
  have hnot : ¬ (rc = p.rcOk ∧ R.length < C.minReply) := fun ⟨hrc, hshort⟩ => Nat.not_lt.mpr (hlong hrc) hshort
  simp only [replyHandle, if_neg (not_notPending hbusy hcmd), hC, if_neg (not_subIdWrong hsub), if_neg hnot]

/-- A reply that would write into a record that does not exist. -/
theorem completeReply_of_noRecord (h : findReply l.replies l.slotDst = none) :
    completeReply p C cmd rc R l = .fault .noReplyRecord := by
  simp only [completeReply, h]

/-- A successful reply that would write a field that does not exist. -/
theorem completeReply_of_noField {r : Record} (hr : findReply l.replies l.slotDst = some r)
    (hf : ∃ f ∈ C.rep, fieldShape f ∉ r.shape) : completeReply p C cmd p.rcOk R l = .fault .noReplyRecord := by
  have hnot : ¬ r.hasFields C.rep = true := fun h => by
    obtain ⟨f, hmem, hno⟩ := hf
    exact hno (Record.hasFields_iff.mp h f hmem)
  simp only [completeReply, hr, if_true, if_neg hnot]

end

/-- Settles O47. -/
theorem replyNotPendingIsIgnored : Obligations.ReplyNotPendingIsIgnored := by
  intro s e cmd rc R h
  rw [exec_replyHandle, replyHandle_of_notPending h]
  rfl

/-- Settles O48: the registration is spent before the sub-identifier is checked. -/
theorem subIdMismatchStalls : Obligations.SubIdMismatchStalls := by
  rintro s t cmd rc x R C hreg hcmd hbusy hslot hC hparam hwrong rfl
  have hhead : R.head? ≠ some s.link.slotSubId := fun h => by
    obtain ⟨R', rfl⟩ := List.head?_eq_some_iff.mp h
    exact hwrong R' rfl
  refine ⟨?_, hbusy, rfl⟩
  rw [exec_replyPath, replyPath_of_matched hreg hcmd,
    replyHandle_of_subId (l := { s.link with regValid := false }) hbusy hslot hC hparam hhead]
  rfl

/-- Settles O49. -/
theorem shortReplyStalls : Obligations.ShortReplyStalls := by
  rintro s t cmd x R C hreg hcmd hbusy hslot hC hsub hshort rfl
  refine ⟨?_, hbusy, rfl⟩
  rw [exec_replyPath, replyPath_of_matched hreg hcmd,
    replyHandle_of_short (l := { s.link with regValid := false }) hbusy hslot hC hsub hshort]
  rfl

theorem sendCommand_of_refused {p : Params} {e : Nat} {A : List Byte} (h : p.cat.length ≤ e ∨ 255 < A.length)
    (cmd extraFlags : Byte) (l : Link) : sendCommand p cmd extraFlags A e l = .refused .operandRange :=
  if_neg fun ⟨he, hA⟩ => h.elim (Nat.not_le.mpr he) (Nat.not_lt.mpr hA)

/-- Settles O31. -/
theorem operandsOutOfRangeStop : Obligations.OperandsOutOfRangeStop := by
  refine fun s cmd rc y q extraFlags A R e => ⟨fun h => ?send, fun hbusy hcmd he => ?entry,
    fun C hbusy hcmd hC hsub hlong h => ?record⟩
  case send => rw [exec_sendCommand, sendCommand_of_refused h, State.lift_refused]
  case entry =>
    rw [exec_replyHandle, replyHandle_of_noEntry hbusy hcmd (List.getElem?_eq_none he), State.lift_refused]
  case record =>
    rw [exec_replyHandle, replyHandle_of_checked hbusy hcmd hC hsub hlong]
    obtain hnone | ⟨rfl, r, hr, hf⟩ := h
    · rw [completeReply_of_noRecord hnone, State.lift_fault]
    · rw [completeReply_of_noField hr hf, State.lift_fault]

/-! ### Replies that complete (R145, R177, R178) -/

/-- Spending the registration does not change what an accepted reply is. -/
theorem ReplyAccepted.unregister {p : Params} {l : Link} {e : Nat} {cmd rc : Byte} {R : List Byte} {C : CmdEntry}
    {r : Record} (h : ReplyAccepted p l e cmd rc R C r) :
    ReplyAccepted p { l with regValid := false } e cmd rc R C r :=
  ⟨h.busy, h.cmdId, h.entry, h.subId, h.long, h.found, h.fields⟩

/-- R145, R177, R178: an accepted reply to the registered command, through REPLY_PATH. -/
theorem ReplyAccepted.replyPath_completes {c : Config} {l : Link} {cmd rc : Byte} {R : List Byte} {C : CmdEntry}
    {r : Record} (h : ReplyAccepted c.toParams l l.regEntry cmd rc R C r) (hreg : l.regValid = true)
    (hcmd : l.regCmdId = cmd) :
    ∃ r', RecordWritten c.toParams C rc R r r' ∧ replyPath c.toParams cmd (rc :: R) l = .next { l with
      regValid := false, busy := false
      replies := putReply l.replies l.slotDst r', ev := l.ev ++ [.replyReady cmd] } := by
  rw [replyPath_of_matched hreg hcmd]
  exact h.unregister.completes

/-- Settles O46: the three rows run REPLY_PATH, which runs REPLY_HANDLE with the registration spent. -/
theorem replyFramesComplete : Obligations.ReplyFramesComplete := by
  intro s cmd len rc flags x R C r hreg hcmd h hlen hresp
  obtain ⟨r', -, hpath⟩ := h.replyPath_completes hreg hcmd
  have hexec := congrArg s.lift hpath
  have hframe := exec_frameReceived_of_response (A := rc :: R) hlen hresp cmd x s
  refine ⟨_, ?handle, hexec, hframe.trans hexec, hframe.trans hexec, rfl, rfl, rfl⟩
  case handle =>
    rw [replyPath_of_matched hreg hcmd] at hexec
    exact hexec

theorem execAll_cons_of_next {i : Instr} {s u : State} (h : exec i s = .next u) (is : List Instr) :
    execAll (i :: is) s = execAll is u := by
  rw [execAll, h, andThen_next]

/-- Settles O54: the cancelled command's registration still matches, and no command is pending. -/
theorem lateReplyAfterCancel : Obligations.LateReplyAfterCancel := by
  intro s cmd rc x R hreg hcmd
  have hpath := (replyPath_of_matched (l := cancel s.link) hreg hcmd s.cfg.toParams rc R).trans
    (replyHandle_of_notPending (.inl rfl) _ _ _ _)
  have hreply : exec (.replyPath cmd x (rc :: R)) (s.setLink (cancel s.link)) = .next _ := congrArg s.lift hpath
  rw [execAll_cons_of_next (exec_cancel s), execAll_cons_of_next hreply]
  rfl

/-- R255(c): a reply is accepted by the command that an INVOKE of its entry has just recorded. -/
theorem replyAccepted_of_invoked {p : Params} {l : Link} {C : CmdEntry} {e dst : Nat} {A R : List Byte} {rc : Byte}
    {r : Record} (hC : p.cat[e]? = some C) (hr : findReply l.replies dst = some r) (hfits : r.fits C.rep = true)
    (hsub : C.param = true → R.head? = some C.subId) (hlong : rc = p.rcOk → C.minReply ≤ R.length) :
    ReplyAccepted p (l.invoked p C e dst A) e C.cmdId rc R C r where
  busy := rfl
  cmdId := rfl
  entry := hC
  subId := hsub
  long := hlong
  found := hr
  fields := fun _ => Record.hasFields_iff.mp (Record.hasFields_of_fits hfits)

/-- Settles O55: CANCEL, the accepted INVOKE, and the reply it completes. -/
theorem lateReplyCompletesNewCommand : Obligations.LateReplyCompletesNewCommand := by
  rintro s e dst args rc x R C ⟨C', A, r, hC', hA, hlen, hr, hshape⟩ hC hsub hlong
  obtain rfl : C' = C := Option.some.inj (hC'.symm.trans hC)
  obtain ⟨hfit, rfl⟩ := requestPayload_eq_some.mp hA
  have hfits := Record.hasShape_iff.mp hshape
  have hwf : reqWf C' args (findReply s.link.replies dst) = true := by simp [reqWf, hfit, hlen, hr, hfits]
  have hinvoke : exec (.invoke e args dst) (s.setLink (cancel s.link)) = .next _ :=
    congrArg s.lift (invoke_eq_invoked (l := cancel s.link) hC hwf rfl)
  have hacc := replyAccepted_of_invoked (l := cancel s.link) (A := encodeRequest C' args) hC hr hfits hsub hlong
  obtain ⟨r', hwritten, hpath⟩ := hacc.replyPath_completes rfl rfl
  have hreply : exec (.replyPath C'.cmdId x (rc :: R))
      (s.setLink ((cancel s.link).invoked s.cfg.toParams C' e dst (encodeRequest C' args))) = .next _ :=
    congrArg s.lift hpath
  have hrun := (execAll_cons_of_next (exec_cancel s) _).trans
    ((execAll_cons_of_next hinvoke _).trans (execAll_cons_of_next hreply []))
  exact ⟨_, r', hrun, rfl, rfl, rfl, findReply_putReply_same _ _ _, hwritten.rcWritten,
    fun d hd => findReply_putReply_other _ _ hd⟩

/-! ### A notification that is delivered (R180 to R182) -/

theorem putField_of_notMem {fs : List (FieldName × Value)} {n : FieldName} (h : n ∉ fs.map Prod.fst) (v : Value) :
    putField fs n v = fs ++ [(n, v)] := by
  induction fs with
  | nil => rfl
  | cons x fs ih =>
    obtain ⟨hne, hrest⟩ := not_or.mp (mt List.mem_cons.mpr h)
    rw [putField, if_neg (Ne.symm hne), ih hrest, List.cons_append]

/-- Distinct names are put one behind the other. -/
theorem foldl_putField {fields : List Field} {fs : List (FieldName × Value)} (val : Field → Value)
    (h : (fs.map Prod.fst ++ fields.map Field.name).Nodup) :
    fields.foldl (fun fs f => putField fs f.name (val f)) fs = fs ++ fields.map fun f => (f.name, val f) := by
  induction fields generalizing fs with
  | nil => simp
  | cons f fields ih =>
    obtain ⟨-, -, hdistinct⟩ := List.nodup_append.mp h
    have hnew : f.name ∉ fs.map Prod.fst := fun hmem =>
      hdistinct _ hmem _ (List.mem_map_of_mem List.mem_cons_self) rfl
    rw [List.foldl_cons, putField_of_notMem hnew, ih (by simpa using h)]
    simp

/-- R180, R82: the record of a notification that holds all its fields. -/
theorem decodeNotif_eq {N : NotifEntry} {A : List Byte} (hN : N.ok = true) (hnames : (N.fields.map Field.name).Nodup)
    (hlong : N.minLen ≤ A.length) :
    decodeNotif N A = {
      fields := N.fields.map fun f => (f.name, fieldContent f A)
      tail := N.tail.map fun o => { tailLen := A.length - o, bytes := A.drop o } } := by
  have hcontent : ∀ f ∈ N.fields, (f.name, decodeField f A) = (f.name, fieldContent f A) := fun f hf => by
    rw [decodeField_eq_fieldContent (((meetsR84_iff.mpr hN).fieldsFit f hf).trans hlong)]
  rw [decodeNotif, foldl_putField _ (by simpa using hnames), List.nil_append, List.map_congr_left hcontent]

/-- Settles O52. -/
theorem notifDecodeDelivers : Obligations.NotifDecodeDelivers := by
  rintro s cmd A N hN rfl hnames hlong hcap
  obtain ⟨-, hncat, -⟩ := s.cfg.catalog_facts
  rw [exec_notifDecode, notifDecode_of_known _ hN, if_neg (Nat.not_lt.mpr hlong), if_neg (Nat.not_lt.mpr hcap),
    decodeNotif_eq (hncat N hN) hnames hlong]

end Sys2Proof.Machine

/-! A step on the addressed link (R13, R62), and the host's accesses to the records it shares with the block
(20_memory.md R52, R53, I9). -/

namespace Sys2Proof.Machine

/-! ### Addressing a link -/

theorem State.atLink_before_length {s : State} {k : Nat} {l : Link} (h : s.links[k]? = some l) (rest : List Item) :
    (s.atLink k l rest).before.length = k := by
  obtain ⟨hk, -⟩ := List.getElem?_eq_some_iff.mp h
  exact List.length_take_of_le hk.le

theorem runItem_of_decode {s : State} {t : Txn} {i : Instr} (h : decode s.cfg.toParams t = .op i) :
    runItem (.txn t) s = exec i s := by
  simp only [runItem, h]

/-- Settles O5: the machine that addresses the item's link. -/
theorem stepRunsDecoded : Obligations.StepRunsDecoded := by
  intro s it rest t i l hs hact hdec hl
  refine ⟨s.atLink it.inst l rest, ?step, rfl, State.atLink_before_length hl rest, State.atLink_links hl rest, rfl, rfl,
    rfl⟩
  case step =>
    rw [step_eq hs hl, hact]
    exact runItem_of_decode hdec

/-- What an operation leaves on the addressed link stands at its place. -/
theorem State.setLink_atLink_getElem? {s : State} {k : Nat} {l : Link} (h : s.links[k]? = some l) (rest : List Item)
    (m : Link) : ((s.atLink k l rest).setLink m).links[k]? = some m := by
  have hlen := State.atLink_before_length h rest
  show ((s.atLink k l rest).before ++ m :: (s.atLink k l rest).after)[k]? = some m
  rw [List.getElem?_append_right hlen.le, hlen, Nat.sub_self]
  rfl

/-- A host access runs on the link its item addresses. -/
theorem step_host {s : State} {k : Nat} {a : HostAccess} {rest : List Item} {l : Link}
    (hs : s.script = ⟨k, .host a⟩ :: rest) (hl : s.links[k]? = some l) :
    step s = (s.atLink k l rest).lift (hostAccess a l) := step_eq hs hl

theorem step_host_of_next {s : State} {k : Nat} {a : HostAccess} {rest : List Item} {l m : Link}
    (hs : s.script = ⟨k, .host a⟩ :: rest) (hl : s.links[k]? = some l) (h : hostAccess a l = .next m) :
    ∃ t, step s = .next t ∧ t.links[k]? = some m :=
  ⟨_, by rw [step_host hs hl, h, State.lift_next], State.setLink_atLink_getElem? hl rest m⟩

theorem step_host_of_fault {s : State} {k : Nat} {a : HostAccess} {rest : List Item} {l : Link} {r : Fault}
    (hs : s.script = ⟨k, .host a⟩ :: rest) (hl : s.links[k]? = some l) (h : hostAccess a l = .fault r) :
    step s = .fault r := by rw [step_host hs hl, h, State.lift_fault]

theorem step_host_of_refused {s : State} {k : Nat} {a : HostAccess} {rest : List Item} {l : Link} {r : Refusal}
    (hs : s.script = ⟨k, .host a⟩ :: rest) (hl : s.links[k]? = some l) (h : hostAccess a l = .refused r) :
    step s = .refused r := by rw [step_host hs hl, h, State.lift_refused]

/-! ### The notification record (R53) -/

/-- Settles O60. -/
theorem notifReadNeedsRecord : Obligations.NotifReadNeedsRecord := by
  refine fun s rest k l hs hl => ⟨fun hnone => ?unread, fun r hr => ?read⟩
  case unread => exact step_host_of_fault hs hl (by simp only [hostAccess, hnone])
  case read => exact step_host_of_next hs hl (by simp only [hostAccess, hr])

/-! ### The reply records (R52, I9) -/

theorem Link.borrowed_slotDst {l : Link} (h : l.busy = true) : l.borrowed l.slotDst = true := by
  simp [Link.borrowed, h]

theorem Link.not_borrowed {l : Link} {dst : Nat} (h : l.busy = false ∨ l.slotDst ≠ dst) : ¬ l.borrowed dst = true := by
  obtain h | h := h <;> simp [Link.borrowed, h]

section

variable {l : Link} {dst : Nat} (hfree : l.busy = false ∨ l.slotDst ≠ dst)

include hfree

theorem readReply_of_noRecord (h : findReply l.replies dst = none) (sel : ReplySel) :
    readReply dst sel l = .fault .noReplyRecord := by
  simp only [readReply, if_neg (Link.not_borrowed hfree), h]

variable {r : Record} (hr : findReply l.replies dst = some r)

include hr

theorem readReply_rc_of_none (h : r.rc = none) : readReply dst .rc l = .fault .replyUnwritten := by
  simp only [readReply, if_neg (Link.not_borrowed hfree), hr, h]

theorem readReply_rc_of_some {v : Byte} (h : r.rc = some v) :
    readReply dst .rc l = .next { l with reads := l.reads ++ [.replyRc dst v] } := by
  simp only [readReply, if_neg (Link.not_borrowed hfree), hr, h]

theorem readReply_of_noField {n : FieldName} (h : ∀ g ∈ r.fields, g.name ≠ n) :
    readReply dst (.field n) l = .fault .noReplyRecord := by
  have hfind : r.fields.find? (fun g => decide (g.name = n)) = none :=
    List.find?_eq_none.mpr fun g hg => by simpa using h g hg
  simp only [readReply, if_neg (Link.not_borrowed hfree), hr, hfind]

/-- R52: with distinct names a field's name finds that field. -/
theorem readReply_field {g : ReplyField} (hg : g ∈ r.fields) (hnames : (r.fields.map ReplyField.name).Nodup) :
    (g.val = none → readReply dst (.field g.name) l = .fault .replyUnwritten) ∧
    ∀ v, g.val = some v →
      readReply dst (.field g.name) l = .next { l with reads := l.reads ++ [.replyField dst g.name v] } := by
  have hfind : r.fields.find? (fun k => decide (k.name = g.name)) = some g := by
    cases h : r.fields.find? fun k => decide (k.name = g.name) with
    | none => exact absurd (decide_eq_true rfl) (List.find?_eq_none.mp h g hg)
    | some k =>
      have hname : k.name = g.name := by simpa using List.find?_some h
      exact congrArg some (name_inj_of_nodup hnames (List.mem_of_find?_eq_some h) hg hname)
  constructor
  · intro hval
    simp only [readReply, if_neg (Link.not_borrowed hfree), hr, hfind, hval]
  · intro v hval
    simp only [readReply, if_neg (Link.not_borrowed hfree), hr, hfind, hval]

end

theorem hostAccess_of_borrowed {l : Link} {a : HostAccess} (hbusy : l.busy = true)
    (h : (∃ sel, a = .readReply l.slotDst sel) ∨ ∃ r, a = .writeReply l.slotDst r) :
    hostAccess a l = .refused .borrowed := by
  obtain ⟨sel, rfl⟩ | ⟨r, rfl⟩ := h <;>
    simp only [hostAccess, readReply, if_pos (Link.borrowed_slotDst hbusy)]

theorem writeReply_of_untyped {l : Link} {dst : Nat} (hfree : l.busy = false ∨ l.slotDst ≠ dst) {r : Record}
    (h : ¬ r.Typed) : hostAccess (.writeReply dst r) l = .refused .operandRange := by
  have hok : r.ok = false := Bool.eq_false_iff.mpr (mt Record.typed_iff.mpr h)
  simp only [hostAccess, if_neg (Link.not_borrowed hfree), hok, Bool.not_false, if_true]

theorem writeReply_of_typed {l : Link} {dst : Nat} (hfree : l.busy = false ∨ l.slotDst ≠ dst) {r : Record}
    (h : r.Typed) : hostAccess (.writeReply dst r) l = .next { l with replies := putReply l.replies dst r } := by
  have hok : r.ok = true := Record.typed_iff.mp h
  simp only [hostAccess, if_neg (Link.not_borrowed hfree), hok, Bool.not_true, Bool.false_eq_true, if_false]

/-- Settles O59: a borrowed record, then a free one, read part by part or written whole. -/
theorem borrowedRecordIsRefused : Obligations.BorrowedRecordIsRefused := by
  refine fun s rest k l a hs hl => ⟨fun hbusy h => step_host_of_refused hs hl (hostAccess_of_borrowed hbusy h),
    fun dst hfree => ⟨?read, ?write⟩⟩
  case read =>
    rintro sel rfl
    refine ⟨fun hnone => step_host_of_fault hs hl (readReply_of_noRecord hfree hnone sel), fun r hr => ⟨?_, ?_, ?_, ?_⟩⟩
    · rintro rfl hrc
      exact step_host_of_fault hs hl (readReply_rc_of_none hfree hr hrc)
    · rintro v rfl hrc
      exact step_host_of_next hs hl (readReply_rc_of_some hfree hr hrc)
    · rintro n rfl hno
      exact step_host_of_fault hs hl (readReply_of_noField hfree hr hno)
    · rintro g hg hnames rfl
      obtain ⟨hunwritten, hcontent⟩ := readReply_field hfree hr hg hnames
      exact ⟨fun hval => step_host_of_fault hs hl (hunwritten hval),
        fun v hval => step_host_of_next hs hl (hcontent v hval)⟩
  case write =>
    rintro r rfl
    refine ⟨fun hbad => step_host_of_refused hs hl (writeReply_of_untyped hfree hbad), fun htyped => ?_⟩
    obtain ⟨t, hstep, hlink⟩ := step_host_of_next hs hl (writeReply_of_typed hfree htyped)
    exact ⟨t, _, hstep, hlink, findReply_putReply_same _ _ _, fun d hd => findReply_putReply_other _ _ hd⟩

end Sys2Proof.Machine
